-- ==== Sys2Proof/Word.lean ====
section
/-! DEFINITION. The plain words of the model: bytes, command words, and the one shape of every table,
a list of (key, value) pairs. -/

set_option autoImplicit false

namespace Sys2Proof

/-- One byte. -/
abbrev Byte := BitVec 8

/-- A run of bytes, lowest address first (R13: multi-byte fields are little-endian). -/
abbrev Bytes := List (BitVec 8)

/-- A 128-bit command word (R172). -/
abbrev CmdWord := BitVec 128

/-- A binary32 value as its code. -/
abbrev F32 := BitVec 32

/-- A table by number: pairs of a key and a value, kept in rising key order by the operations of
Machine/Map.lean. A key that is not listed reads as the default its reader names. -/
abbrev SMap (α : Type) := List (Nat × α)

/-- A counter that holds at its maximum. -/
def satAdd (top a n : Nat) : Nat := min top (a + n)

end Sys2Proof
end

