-- ==== Sys2Proof/Syntax.lean ====
section
/-! DEFINITION. The commands: one constructor for each row of spec/opcode_table.json, in the table's order,
with the operands that the outside supplies. A row of a core's engine names the core (its fields stand in the
command word, R172 to R181). A row of a host request names the place of the request among the requests taken
(its fields stand in ARGS, R443). A row of a session request carries the datagram (R384). -/

set_option autoImplicit false

namespace Sys2Proof

/-- A physical core: die 0 to 7, core 0 to 67 (00_scope.md, Names). -/
structure CoreId where
  die : Nat
  phys : Nat
  deriving DecidableEq, Repr

/-- The units of a core that take command words (R172). -/
inductive Engine
  | cc | ope | ve | te
  deriving DecidableEq, Repr

/-- What a check code finds on a line: a correctable or an uncorrectable error (R290, R93). -/
inductive Flaw
  | ce | ue
  deriving DecidableEq, Repr

/-- The lines that the access of a command finds in error: line number (byte address div 64) and error. -/
abbrev Flaws := List (Nat × Flaw)

/-- How long RESET_N stays low (R33, Case: RESET_N falls while the module is running). -/
inductive LowPulse
  | long       -- at least 10 us
  | short      -- below 1 us
  | between    -- from 1 us to 10 us
  deriving DecidableEq, Repr

/-- A lane that training replaces by a spare (R500): one of a near-stack bond (of a cluster), or of a die-to-die link. -/
structure Lane where
  bond : Bool
  die : Nat
  unit : Nat
  lane : Nat
  deriving DecidableEq, Repr

/-- What the environment decides at a start (R31, R32, R428, R44): rails that fail (die, row of R26), dies whose
boot ROM finds a good cellar core, dies whose port SerDes locks and passes loopback, whether NOR answers, whether a die
is hot, dies that cannot read the NOR though it answers, ports whose reference is absent (R46), dies without working far
memory (R493), dies of which another unit of R498 does not work (key fuses, understory, the last core with its tile store,
the near channel group of the firmware area), and lanes that training finds bad (R500). -/
structure StartEnv where
  railFail : List (Nat × Nat)
  cellarOk : List Nat
  serdesOk : List Nat
  norOk : Bool
  hot : Bool
  norBlind : List Nat
  noRef : List Nat
  noFar : List Nat
  lame : List Nat
  lanes : List Lane
  deriving DecidableEq, Repr

/-- Whether the NOR answers a die (R428). -/
def StartEnv.reads (env : StartEnv) (d : Nat) : Bool := env.norOk && !env.norBlind.contains d

/-- What a reset of a partition meets (R480, R500): the operations that it aborts (physical core, number), and the bond lanes that
retraining finds bad. -/
structure ResetEnv where
  cut : List (Nat × Nat)
  lanes : List Lane
  deriving DecidableEq, Repr

/-- What a received frame brings beside its content: the FEC codewords that its port has corrected, and those it could not,
since the frame before it (R396); the link address that it comes from (R355); under MACsec, that it is protected, whether its
ICV holds, and its packet number (R374, R375). -/
structure Arrival where
  corr : Nat
  uncorr : Nat
  mac : BitVec 48
  macsec : Bool
  icvOk : Bool
  pn : Nat
  deriving DecidableEq, Repr

/-- A neighbour in ARP or Neighbour Discovery (R355, R357): the address of the sender, whether its packet answers a question of
the port (an ARP reply, a Neighbour Advertisement), and its frame. -/
structure Neighbour where
  ip : BitVec 128
  answer : Bool
  arr : Arrival
  deriving DecidableEq, Repr

/-- The payload of an ICMP echo request, and its frame. -/
structure EchoPkt where
  payload : Bytes
  arr : Arrival
  deriving DecidableEq, Repr

/-- A congestion notification packet: the clock of its port in µs (R362), and its frame. -/
structure CnpPkt where
  us : Nat
  arr : Arrival
  deriving DecidableEq, Repr

/-- A RoCEv2 packet as it reaches a port: the fields that R363 to R370 use. -/
structure RocePkt where
  qpn : Nat
  psn : Nat
  last : Bool
  ackReq : Bool
  ce : Bool
  tag : Option Nat          -- the priority of its VLAN tag, when it has one
  dscp : Nat
  key : Nat
  va : Nat
  len : Nat
  add : Nat
  data : Bytes
  mask : List Bool
  arr : Arrival
  deriving DecidableEq, Repr

/-- The priority of a received packet (R359): that of its VLAN tag, else its DSCP divided by 8. -/
def RocePkt.prio (k : RocePkt) : Nat := k.tag.getD (k.dscp / 8)

/-- Operations that the module does not serve as responder (R363). -/
inductive RoceOther
  | send | writeImm | compareSwap | other
  deriving DecidableEq, Repr

/-- The negative acknowledgements of RoCEv2 that the manual names (R368, R371). -/
inductive NakKind
  | seq | invalid | access | operational | rnr
  deriving DecidableEq, Repr

/-- A collective packet: the header of R411, its source address, its CE mark and its payload. -/
structure CollPkt where
  version : Nat
  type : Nat
  poison : Bool
  ece : Bool
  last : Bool
  job : Nat
  member : Nat
  inc : Nat
  destInc : Nat
  bucket : Nat
  round : Nat
  hop : Nat
  epoch : Nat
  chunk : Nat
  seq : Nat
  src : BitVec 128
  sport : Nat
  dport : Nat
  ce : Bool
  payload : Bytes
  arr : Arrival
  deriving DecidableEq, Repr

/-- A UDP datagram to port 47971 (R384). -/
structure Datagram where
  port : Nat
  src : BitVec 128
  body : Bytes
  deriving DecidableEq, Repr

/-- What a port sees of a frame that it may drop (R354, R357, R360, R375). -/
structure Frame where
  len : Nat
  tags : Nat
  arr : Arrival
  supported : Bool
  exempt : Bool
  tag : Option Nat          -- the priority of its VLAN tag, when it has one
  dscp : Nat
  deriving DecidableEq, Repr

/-- The priority of a received frame (R359). -/
def Frame.prio (k : Frame) : Nat := k.tag.getD (k.dscp / 8)

/-- The channel of a patrol scrubber (R291): a far channel, or a near channel group. -/
structure Chan where
  far : Bool
  index : Nat
  deriving DecidableEq, Repr

/-- The PSN of an ACK or a NAK, whether it came marked CE (R361, R371), and its frame. -/
structure AckHead where
  psn : Nat
  ce : Bool
  arr : Arrival
  deriving DecidableEq, Repr

/-- A unit of a die, by the UNIT codes and INDEX of R464. -/
structure UnitRef where
  die : Nat
  kind : Nat
  index : Nat
  deriving DecidableEq, Repr

/-- A result of a self-test: what R515 writes into a map entry (KIND, UNIT, SUB, WHERE of R509) and its die. -/
structure TestFail where
  die : Nat
  kind : Nat
  unit : Nat
  sub : Nat
  whereAt : Nat
  bit : Nat
  deriving DecidableEq, Repr

/-- A register of the control window (R16), with the indices that say which one. -/
inductive Reg
  | paceStatus (c : CoreId) | workBeats (c : CoreId) | coverBeats (c : CoreId) | coverControl (c : CoreId)
  | opeConfig (c : CoreId) | opeStatus (c : CoreId) | opeBank (c : CoreId) (n : Nat) | opeSkew (c : CoreId)
  | opeRemap (c : CoreId) (n : Nat) | opeEscapes (c : CoreId) | tstoreErrors (c : CoreId) | fmtErrors (c : CoreId)
  | accFlags (c : CoreId) | accLast (c : CoreId) | accReadout (c : CoreId)
  | ccStatus (c : CoreId) | ccConsumed (c : CoreId) | ccRetired (c : CoreId) | ccFault (c : CoreId)
  | ccFaultWord (c : CoreId) | ccMark (c : CoreId) | ccLc (c : CoreId) (n : Nat)
  | veControl (c : CoreId) | veCheck (c : CoreId) | teIndex (c : CoreId) | veTrain (c : CoreId)
  | syncWaitState (c : CoreId) | syncWaitPolls (c : CoreId) | syncBackoff (c : CoreId) | syncTimeout (c : CoreId)
  | syncHold (c : CoreId) | syncUnfenced (c : CoreId) | syncXlate (c : CoreId)
  | streamRing (c : CoreId) (n : Nat) | lateSlots (c : CoreId) | streamFlow (c : CoreId) | teOutstanding (c : CoreId)
  | vcore (d : Nat) | ramp (d : Nat) | current (d : Nat)
  | guardStatus | guardCounts | guardConfig
  | xlateFault (d k : Nat) | xlateCounts (d k : Nat) | nearErrors (d k : Nat) | farErrors (d ch : Nat)
  | scrub (d : Nat) | rackStatus (d e : Nat) | rackCounts (d e : Nat) | rackControl (d e : Nat)
  | partConfig (p : Nat) | partSwitch (p : Nat) | partClearing (p : Nat) | partReset (p : Nat) | partBarrier (p b : Nat)
  | trellisStatus
  | portStatus (p : Nat) | portQos (p : Nat) | portDscp (p : Nat) | portRatectl (p : Nat) | portLinkCounts (p : Nat)
  | portRoceCounts (p : Nat) | portCongestion (p : Nat) | portDrops (p : Nat) | sessionStatus
  | collStatus (p : Nat) | collRounds (p : Nat) | collWire (p : Nat) | collDrops (p : Nat)
  | cellarBoot | cellarCore (d n : Nat) | cellarWdog (d n : Nat) | cellarTime (d : Nat)
  | healthHang (d : Nat) | healthReports (d : Nat) | healthCounts (d : Nat)
  | dieFence | dumpStatus | copSpares (d : Nat) | copRates (d : Nat) | availCounts
  deriving DecidableEq, Repr

/-- The commands. -/
inductive Instr
  -- power, pins, supply guard, JTAG
  | input48vApplied (slot : BitVec 3) (mv : Nat)
  | resetNRise (env : StartEnv)
  | resetNFall (pulse : LowPulse)
  | railOutOfTolerance (d row mv : Nat)
  | sensorRead (d sensor : Nat) (value amps : Int)
  | thermalThrottleStep (d : Nat)
  | supplyHoldEnter (mv : Nat)
  | supplyHoldRelease (mv : Nat)
  | supplyThrottleEnter (mv : Nat)
  | supplyThrottleRelease (mv : Nat)
  | supplyResetEnter (mv : Nat)
  | supplyResetRelease (mv : Nat)
  | supplyOverEnter (mv : Nat)
  | supplyOverRelease (mv : Nat)
  | v48MinReset (value : BitVec 32)
  | norRetry (ok : Bool)
  | scanHoldEnter (railFail : List (Nat × Nat))
  | tapBypass (d : Nat)
  | tapIdcode (d : Nat)
  | tapSamplePreload (d : Nat) (pins preload : List Bool)
  | tapExtest (d : Nat)
  | tapExtestPulse (d : Nat)
  | tapExtestTrain (d : Nat)
  -- pace and current
  | delayMonitorCheck (d k margin : Nat)
  | paceIntervalEnd (c : CoreId) (loops : BitVec 20)
  | vcoreSet (d : Nat) (code : BitVec 8)
  | vcoreSlewDone (d : Nat)
  | rampUpdate (d : Nat) (up : Bool) (est meas us : Nat) (parts : List (Nat × Nat))
  | coverCropBeat (c : CoreId) (a : Nat)
  | coverWindowEnd (c : CoreId) (a : Nat)
  -- command core
  | ccDispatch (c : CoreId)
  | ccProducerPoll (c : CoreId)
  | nop (c : CoreId)
  | loop (c : CoreId)
  | setlc (c : CoreId)
  | addlc (c : CoreId)
  | cmpset (c : CoreId)
  | skip (c : CoreId)
  | markStep (c : CoreId)
  | markKeep (c : CoreId)
  | dsync (c : CoreId)
  -- synchronisation
  | signal (c : CoreId) (e : Engine)
  | fence (c : CoreId) (e : Engine)
  | wait (c : CoreId) (e : Engine)
  | waitmem (c : CoreId) (e : Engine)
  | waitPoll (c : CoreId) (e : Engine)
  | waitmemReadReturn (c : CoreId) (e : Engine) (flaws : Flaws)
  | waitTimeout (c : CoreId) (e : Engine) (late : Bool)
  | counterXlateFill (c : CoreId) (e : Engine)
  | madd (c : CoreId) (e : Engine) (flaws : Flaws)
  | barrier (c : CoreId) (e : Engine)
  | stallSample (d first : Nat)
  | syncHoldRelease (c : CoreId) (mask : BitVec 3)
  -- outer-product engine
  | opload (c : CoreId)
  | oploadLanded (c : CoreId) (a : Nat) (flaws : Flaws)
  | opswap (c : CoreId)
  | oprun (c : CoreId)
  | beat (c : CoreId) (flaws : Flaws)
  | partialSumLanded (c : CoreId) (a : Nat)
  | accread (c : CoreId)
  -- vector engine
  | vpad (c : CoreId)
  | vcvt (c : CoreId) (flaws : Flaws)
  | quant (c : CoreId) (flaws : Flaws)
  | vbin (c : CoreId) (flaws : Flaws)
  | vfma (c : CoreId) (flaws : Flaws)
  | vscale (c : CoreId) (flaws : Flaws)
  | vact (c : CoreId) (flaws : Flaws)
  | vdact (c : CoreId) (flaws : Flaws)
  | vred (c : CoreId) (flaws : Flaws)
  | vsoftmax (c : CoreId) (flaws : Flaws)
  | vsmback (c : CoreId) (flaws : Flaws)
  | vlse (c : CoreId) (flaws : Flaws)
  | vnorm (c : CoreId) (flaws : Flaws)
  | adamq (c : CoreId) (flaws : Flaws)
  | veCheckHit (c : CoreId) (line : Nat)
  -- transfer engine
  | reArm (c : CoreId)
  | tfill (c : CoreId)
  | tdrain (c : CoreId)
  | tgather (c : CoreId)
  | tscatter (c : CoreId)
  | tcopy (c : CoreId)
  | tzero (c : CoreId)
  | tput (c : CoreId) (flaws : Flaws)
  | tred (c : CoreId)
  | teOpComplete (c : CoreId) (op : Nat) (flaws : Flaws)
  -- memory
  | xlateMissFill (d k : Nat)
  | rackOpDone (d e obj granule : Nat) (flaws : Flaws)
  | patrolScrub (d : Nat) (chan : Chan) (flaw : Option Flaw)
  | memErrorsClear (d : Nat) (far : Bool) (index : Nat)
  | rackReset (d e : Nat)
  | spareBankCopyDone (d k bank : Nat)
  | create (n : Nat)
  | free (n : Nat)
  | map (n : Nat)
  | unmap (n : Nat)
  | promote (n : Nat)
  | evict (n : Nat)
  | flush (n : Nat)
  | query (n : Nat)
  -- trellis, contexts
  | trellisApply (n : Nat)
  | applyQuiesceTimeout
  | ctxCreate (n : Nat)
  | ctxSchedule (n : Nat)
  | ctxSet (n : Nat)
  | ctxQuery (n : Nat)
  | ctxDestroy (n : Nat)
  | ctxAbort (n : Nat)
  | ctxReclaim (n : Nat)
  | queueRelease (n : Nat)
  | contextSwitch (d first : Nat) (last drain : Nat)
  | quiesceFallback (ctx : Nat)
  | teardownComplete (ctx : Nat)
  | teardownEscalate (ctx : Nat)
  -- ports
  | portRateAttempt (p : Nat)
  | portLock (p : Nat) (lanes : BitVec 8)
  | portLockLoss (p : Nat)
  | arpReceived (p : Nat) (sender : Neighbour) (target : BitVec 128)
  | ndReceived (p : Nat) (sender : Neighbour) (target : BitVec 128)
  | icmpEcho (p : Nat) (sender dest : BitVec 128) (k : EchoPkt)
  | frameDropped (p : Nat) (fr : Frame)
  | pfcReceived (p prio : Nat) (quanta : BitVec 16)
  | pfcRefresh (p prio : Nat)
  | pfcPauseLong (p prio : Nat)
  | roceInboundWrite (p : Nat) (pkt : RocePkt) (flaws : Flaws)
  | roceInboundRead (p : Nat) (pkt : RocePkt) (flaws : Flaws)
  | roceInboundFetchAdd (p : Nat) (pkt : RocePkt) (flaws : Flaws)
  | roceAckReceived (p qpn : Nat) (a : AckHead)
  | roceNakReceived (p qpn : Nat) (a : AckHead) (kind : NakKind)
  | roceCnpReceived (p qpn : Nat) (k : CnpPkt)
  | qpRateIncrease (p qpn : Nat)
  | qpAckTimeout (p qpn : Nat)
  | qpCreate (n : Nat)
  | qpDestroy (n : Nat)
  | keyCreate (n : Nat)
  | keyDestroy (n : Nat)
  | portConfig (n : Nat)
  -- sessions
  | hostHello (m : Datagram)
  | hostProof (m : Datagram)
  | sessionProofTimeout (src : BitVec 128)
  | close (m : Datagram)
  | proofLockEnd
  | bootSessionIdle
  | attest (m : Datagram)
  | ownerAdd (m : Datagram)
  | ownerRemove (m : Datagram)
  | policySet (m : Datagram)
  | passwordSet (m : Datagram)
  | ownerRelease (m : Datagram)
  | bootAddress (m : Datagram)
  | macsecOn (m : Datagram)
  | bootConnect (m : Datagram)
  | bootGo (m : Datagram)
  | ringsOpen (m : Datagram)
  | resetModule (m : Datagram)
  | dumpOpen (m : Datagram)
  | dumpRelease (m : Datagram)
  | dumpSize (m : Datagram)
  | shutdown (m : Datagram)
  | orderlyShutdown (fails : List TestFail) (notRun : Nat)
  -- collectives
  | collCreate (n : Nat)
  | collDestroy (n : Nat)
  | collQuery (n : Nat)
  | collScaleReceived (p : Nat) (k : CollPkt)
  | collDataReceived (p : Nat) (k : CollPkt)
  | collAckReceived (p : Nat) (k : CollPkt) (us : Nat)
  | collNotReadyReceived (p : Nat) (k : CollPkt)
  | collResettingReceived (p : Nat) (k : CollPkt)
  | resetNotice (p : Nat) (k : CollPkt)
  | rejoin (p : Nat) (k : CollPkt)
  | closed (p : Nat) (k : CollPkt)
  | collResend (p coll : Nat)
  | collControlResend (p coll : Nat)
  | hopFailed (p coll : Nat)
  | roundTimeout (p coll bucket : Nat)
  | roundComplete (p coll bucket : Nat)
  -- host rings
  | doorbellSubmission (sess : Nat)
  | doorbellCompletion (sess : Nat)
  | doorbellEvent (sess : Nat)
  | submissionTake (sess : Nat)
  | nudge (sess p : Nat)
  | argsAttach (n : Nat)
  | leaseSet (n : Nat)
  | fwUpdate (n : Nat) (expired : Option Nat)
  | unload (n : Nat)
  | telemetry (n : Nat)
  | leaseTouch (sess : Nat)
  | leaseExpiry (sess : Nat)
  | reclaimWindowEnd (rec : Nat)
  | watchdogKick (d n : Nat)
  | fwWdog (d n : Nat) (imageOk copyOk : Bool)
  -- faults and recovery
  | faultReport (d : Nat)
  | hangSample (u : UnitRef)
  | contextAbort (ctx : Nat)
  | portReset (p us : Nat)
  | partitionReset (d first us : Nat) (env : ResetEnv)
  | dieFence (d us : Nat)
  | moduleReset (env : StartEnv)
  | recoveryBoundMissed (level : Nat) (u : UnitRef)
  | spareForcedSwitch (d first : Nat)
  | errorsLogHourly (d : Nat)
  -- I3C
  | entdaa (addr : BitVec 7)
  | setdasa (static addr : BitVec 7)
  | setnewda (addr : BitVec 7)
  | rstdaa
  | getpid
  | getbcr
  | getdcr
  | getstatus
  | enec
  | disec
  | i3cOffsetWrite (off : BitVec 8)
  | alertStatusRead (late : BitVec 8)
  | i3cShutdown
  | i3cRequestL4
  -- rows at the table's end
  | registerWrite (r : Reg) (value : BitVec 128)
  | roceInboundUnsupported (p : Nat) (pkt : RocePkt) (op : RoceOther)
  | qpRnrRetry (p qpn : Nat)
  | pfcPauseExpiry (p prio : Nat)
  | collLinkRateIncrease (p coll : Nat)
  | jtagReset
  | unknownSessionRequest (m : Datagram)
  deriving DecidableEq, Repr

end Sys2Proof
end

