-- ==== Sys2Proof/Decode.lean ====
section
/-! DEFINITION. The command a word spells by the bits of spec/opcode_table.json. No row of that table gives bits:
the commands of this block are register accesses, messages, pin events and the steps of its engines, and the
128-bit command words of R172 are data that those engines read (Machine/Operands.lean). -/

set_option autoImplicit false

namespace Sys2Proof

/-- No row of the table gives bits, so no word spells a command. -/
def decodeTableWord (_nbits _w : Nat) : Option Instr := none

end Sys2Proof
end

