-- ==== Sys2Proof/Config.lean ====
section
/-! DEFINITION. What the implementation fixes and the spec leaves open: the free values, the functions of the
published cryptographic standards (uninterpreted here), and the three models of R5. -/

set_option autoImplicit false

namespace Sys2Proof

/-- The models of R5 and their codes of R39. -/
inductive Model
  | krk2 | krk4 | krk8
  deriving DecidableEq, Repr

/-- Compute dies of a model (R5). -/
def Model.dies : Model → Nat
  | .krk2 => 2 | .krk4 => 4 | .krk8 => 8

/-- Ports fitted (R22): P0, then P1, then P2 and P3. -/
def Model.ports : Model → Nat
  | .krk2 => 1 | .krk4 => 2 | .krk8 => 4

/-- Model code (R39). -/
def Model.code : Model → Nat
  | .krk2 => 1 | .krk4 => 2 | .krk8 => 3

/-- Maximum module power in watts (R52). -/
def Model.maxPower : Model → Nat
  | .krk2 => 1300 | .krk4 => 2500 | .krk8 => 4800

namespace Config

/-- The free values, numbered by the counter of State that each use advances (log 9). -/
opaque free : Nat → Nat

/-- The FP32 value that the VE forms at a step of a function, by the step's number and its operands (R325, R328 to R330, R343):
free within the bound that its reader keeps (log 16). -/
opaque formed : Nat → List F32 → F32

/-- KMAC256 of SP 800-185: key, input, output bits, customisation string by its number (R380, R386, R388; log 14). -/
opaque kmac : Bytes → Bytes → Nat → Nat → Bytes

/-- SHAKE256 with an output of the given bits (log 14). -/
opaque shake : Bytes → Nat → Bytes

/-- Whether a signature of FIPS 204 ML-DSA-65 holds: key, message, signature (log 14). -/
opaque dsaOk : Bytes → Bytes → Bytes → Bool

/-- The device key's ML-DSA-65 signature of a message, at the n-th use (R377; log 14). -/
opaque dsaSign : Bytes → Nat → Bytes

/-- ML-KEM-768 encapsulation to a key at the n-th use: ciphertext and shared secret (R385; log 14). -/
opaque kemCt : Bytes → Nat → Bytes
opaque kemSs : Bytes → Nat → Bytes

/-- AES-256-GCM: key, nonce, associated data, ciphertext with tag; none when the tag fails (R386; log 14). -/
opaque gcmOpen : Bytes → Bytes → Bytes → Bytes → Option Bytes

/-- The device certificate of the identity record (R377) and the device public key. -/
opaque cert : Bytes
opaque deviceKey : Bytes

/-- Whether the key fuses hold a vendor key hash that is not revoked (R432). -/
opaque vendorOk : Bytes → Bool

/-- The claim verifier of the identity record, written at the factory (R378, R379): salt and verifier. -/
opaque claimSalt : Bytes
opaque claimVerifier : Bytes

/-- The MAC address of the identity record (R354). -/
opaque mac : Nat

/-- The contents of the boot ROM of a die, as a measured item of R393. -/
opaque bootRom : Nat → Bytes

/-- The 48-bit provisional ID, and the BCR and DCR, that the I3C target answers to GETPID, GETBCR and GETDCR
(R523 names the commands and gives no values; log 15). -/
opaque i3cPid : BitVec 48
opaque i3cBcr : BitVec 8
opaque i3cDcr : BitVec 8

/-- Which of the board sensors 16 to 19 sits at the coolant outlet (R43 names the sensor, no rule its number). -/
opaque outletSensor : Nat

/-- The bank and the row of a near group, and the row and bank group of a far channel, that hold a physical address
(R502 counts by them; no rule maps addresses to them). -/
opaque nearBank : Nat → Nat
opaque nearRow : Nat → Nat
opaque farRow : Nat → Nat
opaque farGroup : Nat → Nat

/-- Spare rows of a near channel group, and spare lanes of a die-to-die link (R500 gives no number). -/
opaque nearSpareRows : Nat
opaque linkSpareLanes : Nat

/-- How the groups of rows of a TSCATTER without ADD rank where they hold one destination row: by occasion, row and group (R201
promises no choice). -/
opaque rank : Nat → Nat → Nat → Nat

/-- Cells of a die's boundary register (R47), and the device of a far channel that holds a byte (R509). -/
opaque boundaryCells : Nat
opaque farDevice : Nat → Nat

/-- The places of the registers in a die's control window, by their order in the field maps (R267, R495 name the window and the
addresses; no rule gives them), in words of 8 bytes from its start. -/
opaque controlAt : Nat → Nat

/-- Where the firmware keeps the granule table of an object (R274) and the window and pin tables of a context (R308):
places in the firmware area that no rule gives, in lines of 64 bytes from its start (log 76). -/
opaque gtableAt : Nat → Nat
opaque windowTableAt : Nat → Nat
opaque pinTableAt : Nat → Nat

end Config
end Sys2Proof
end

