-- ==== Sys2Proof/Machine/Map.lean ====
section
/-! DEFINITION. Tables by number, and bytes by address: sorted lists with one canonical form. A table keeps every
key it was given; a byte memory keeps no entry whose byte is 0, so that equal contents are equal lists. -/

set_option autoImplicit false

namespace Sys2Proof.Machine

/-- The value at a key, or the default. -/
def get {α : Type} (d : α) : SMap α → Nat → α
  | [], _ => d
  | (k, v) :: m, n => if n = k then v else get d m n

/-- The value at a key, if the table holds one. -/
def look {α : Type} : SMap α → Nat → Option α
  | [], _ => none
  | (k, v) :: m, n => if n = k then some v else look m n

/-- Set the value at a key, keeping keys in rising order. -/
def put {α : Type} : SMap α → Nat → α → SMap α
  | [], n, v => [(n, v)]
  | (k, w) :: m, n, v =>
    if n < k then (n, v) :: (k, w) :: m
    else if n = k then (n, v) :: m
    else (k, w) :: put m n v

/-- Remove a key. -/
def del {α : Type} (m : SMap α) (n : Nat) : SMap α := m.filter (fun p => p.1 != n)

/-- Change the value at a key, starting from the default where there is none. -/
def upd {α : Type} (d : α) (m : SMap α) (n : Nat) (f : α → α) : SMap α := put m n (f (get d m n))

/-- Change the values at keys given in rising order, in one pass; answers in order too what each change says. -/
def updMany {α β : Type} (d : α) : SMap α → List (Nat × (α → α × β)) → SMap α × List β
  | m, [] => (m, [])
  | m, (n, f) :: us =>
    let lo := m.takeWhile (fun p => decide (p.1 < n))
    let hi := m.dropWhile (fun p => decide (p.1 < n))
    let (w, rest) := match hi with
      | (k, w) :: t => if k = n then (f w, t) else (f d, hi)
      | [] => (f d, [])
    let r := updMany d rest us
    (lo ++ (n, w.1) :: r.1, w.2 :: r.2)

/-- The values at n keys from a, of a table whose keys rise and do not lie before a. -/
def dense {α : Type} (d : α) : SMap α → Nat → Nat → List α
  | _, _, 0 => []
  | [], a, n + 1 => d :: dense d [] (a + 1) n
  | (k, v) :: m, a, n + 1 => if k = a then v :: dense d m (a + 1) n else d :: dense d ((k, v) :: m) (a + 1) n
termination_by structural _ _ n => n

/-- Change every value. -/
def mapAll {α : Type} (m : SMap α) (f : Nat → α → α) : SMap α := m.map (fun p => (p.1, f p.1 p.2))

/-- The keys whose value meets a test. -/
def keysWhere {α : Type} (m : SMap α) (f : Nat → α → Bool) : List Nat :=
  (m.filter (fun p => f p.1 p.2)).map Prod.fst

/-- The least number below the bound that the table does not hold. -/
def leastFree {α : Type} (m : SMap α) (base top : Nat) : Option Nat :=
  ((List.range top).find? (fun n => (look m (base + n)).isNone)).map (base + ·)

/-! ### Bytes by address -/

/-- A byte memory: (address, byte) pairs, addresses rising, no byte 0 (log 4: an unlisted byte reads 0). -/
abbrev Mem := List Host.Cell

/-- What an unlisted address reads as (log 4). -/
def Mem.unlisted : Byte := 0

/-- One byte. -/
def Mem.byte (m : Mem) (a : Nat) : Byte := get Mem.unlisted m a

/-- Write one byte, keeping the canonical form. -/
def Mem.set (m : Mem) (a : Nat) (b : Byte) : Mem := if b = Mem.unlisted then del m a else put m a b

/-- Addresses strictly rising. -/
def rising {α : Type} : List (Nat × α) → Bool
  | [] => true
  | [_] => true
  | (a, _) :: (b, v) :: m => decide (a < b) && rising ((b, v) :: m)

/-- The canonical form of a byte memory. -/
def Mem.wf (m : Mem) : Bool := rising m && m.all (fun c => c.2 != Mem.unlisted)

/-- n bytes from an address. -/
def Mem.bytes (m : Mem) (a n : Nat) : Bytes := (List.range n).map (fun i => Mem.byte m (a + i))

/-- Write a run of bytes. -/
def Mem.setBytes : Mem → Nat → Bytes → Mem
  | m, _, [] => m
  | m, a, b :: bs => Mem.setBytes (Mem.set m a b) (a + 1) bs

/-! ### Words in bytes (R13: little-endian) -/

/-- The number that a run of bytes holds. -/
def leNat : Bytes → Nat
  | [] => 0
  | b :: bs => b.toNat + 256 * leNat bs

/-- The n low bytes of a number. -/
def natLe : Nat → Nat → Bytes
  | 0, _ => []
  | n + 1, v => BitVec.ofNat 8 v :: natLe n (v / 256)

/-- Bits hi to lo of a number (R13). -/
def bits (v hi lo : Nat) : Nat := v / 2 ^ lo % 2 ^ (hi + 1 - lo)

/-- One bit of a number. -/
def bit (v i : Nat) : Bool := v.testBit i

/-- A slice of bytes. -/
def slice (bs : Bytes) (off n : Nat) : Bytes := (bs.drop off).take n

/-- The number in n bytes at an offset of a byte string. -/
def field (bs : Bytes) (off n : Nat) : Nat := leNat (slice bs off n)

/-- Put a run of bytes into a byte string at an offset. -/
def patch (bs : Bytes) (off : Nat) (v : Bytes) : Bytes := bs.take off ++ v ++ bs.drop (off + v.length)

/-- A byte string of exactly n bytes: cut, or filled with zero bytes. -/
def fit (n : Nat) (bs : Bytes) : Bytes := (bs ++ List.replicate (n - bs.length) 0).take n

/-- Zero bytes. -/
def zeros (n : Nat) : Bytes := List.replicate n 0

/-- Quotient rounded up. -/
def ceilDiv (a b : Nat) : Nat := (a + b - 1) / b

/-- A list with its n-th entry changed. -/
def modNth {α : Type} (l : List α) (n : Nat) (f : α → α) : List α := l.modify n f

/-- The n-th entry, or the default. -/
def nth {α : Type} (d : α) (l : List α) (n : Nat) : α := (l[n]?).getD d

/-- The number 0 or 1 of a truth value. -/
def b2n (b : Bool) : Nat := if b then 1 else 0

end Sys2Proof.Machine
end

