-- ==== Sys2Proof/Machine/Operands.lean ====
section
/-! DEFINITION. Numbers and formats (chapter 04): exact values, every element format and its rounding, tile records
and how an element is read from them, and the operand fields of command words (chapter 06). -/

set_option autoImplicit false

namespace Sys2Proof.Machine

/-- A value: NaN, an infinity, or a sign and an exact magnitude n / d. -/
inductive Val
  | nan
  | inf (s : Bool)
  | fin (s : Bool) (n d : Nat)
  deriving DecidableEq, Repr

/-- A magnitude in lowest terms with its sign. -/
def Val.mk (s : Bool) (n d : Nat) : Val := .fin s (n / Nat.gcd n d) (d / Nat.gcd n d)

def Val.zero : Val := .fin false 0 1
def Val.one : Val := .fin false 1 1

/-- A value from a signed exact ratio, with the sign that a zero takes. -/
def Val.ofInt (zs : Bool) (n : Int) (d : Nat) : Val :=
  if n = 0 then .fin zs 0 1 else Val.mk (decide (n < 0)) n.natAbs d

def Val.num : Bool → Nat → Int
  | true, n => -(n : Int)
  | false, n => n

def Val.neg : Val → Val
  | .nan => .nan | .inf s => .inf (!s) | .fin s n d => .fin (!s) n d

def Val.abs : Val → Val
  | .nan => .nan | .inf _ => .inf false | .fin _ n d => .fin false n d

/-- The exact sum, by the rules of IEEE 754 for infinities and for the sign of zero under RNE. -/
def Val.add : Val → Val → Val
  | .nan, _ => .nan
  | _, .nan => .nan
  | .inf s, .inf t => if s = t then .inf s else .nan
  | .inf s, _ => .inf s
  | _, .inf t => .inf t
  | .fin s n d, .fin t m e => Val.ofInt (s && t) (Val.num s n * e + Val.num t m * d) (d * e)

def Val.sub (a b : Val) : Val := a.add b.neg

/-- The exact product. -/
def Val.mul : Val → Val → Val
  | .nan, _ => .nan
  | _, .nan => .nan
  | .inf s, .inf t => .inf (xor s t)
  | .inf s, .fin t m _ => if m = 0 then .nan else .inf (xor s t)
  | .fin s n _, .inf t => if n = 0 then .nan else .inf (xor s t)
  | .fin s n d, .fin t m e => Val.mk (xor s t) (n * m) (d * e)

/-- The exact quotient. -/
def Val.div : Val → Val → Val
  | .nan, _ => .nan
  | _, .nan => .nan
  | .inf _, .inf _ => .nan
  | .inf s, .fin t _ _ => .inf (xor s t)
  | .fin s _ _, .inf t => .fin (xor s t) 0 1
  | .fin s n d, .fin t m e => if m = 0 then (if n = 0 then .nan else .inf (xor s t)) else Val.mk (xor s t) (n * e) (d * m)

def Val.isNan : Val → Bool | .nan => true | _ => false
def Val.isFin : Val → Bool | .fin _ _ _ => true | _ => false
def Val.isZero : Val → Bool | .fin _ n _ => n == 0 | _ => false
def Val.sign : Val → Bool | .nan => false | .inf s => s | .fin s _ _ => s

/-- a < b as numbers; false when either is NaN. -/
def Val.lt : Val → Val → Bool
  | .nan, _ => false
  | _, .nan => false
  | .inf s, .inf t => s && !t
  | .inf s, _ => s
  | _, .inf t => !t
  | .fin s n d, .fin t m e => decide (Val.num s n * e < Val.num t m * d)

/-- Maximum and minimum of IEEE 754-2019: NaN propagates, −0 lies below +0 (R533). -/
def Val.max (a b : Val) : Val :=
  if a.isNan || b.isNan then .nan else if a.lt b then b else if b.lt a then a else if a.sign then b else a
def Val.min (a b : Val) : Val :=
  if a.isNan || b.isNan then .nan else if a.lt b then a else if b.lt a then b else if a.sign then a else b

/-- x × 2^k for a whole k. -/
def Val.shift (v : Val) (k : Int) : Val :=
  match v with
  | .fin s n d => if k < 0 then Val.mk s n (d * 2 ^ (-k).toNat) else Val.mk s (n * 2 ^ k.toNat) d
  | w => w

/-- floor(log2 (n / d)), for n and d above 0. -/
def flog2 (n d : Nat) : Int :=
  let l : Int := (Nat.log2 n : Int) - (Nat.log2 d : Int)
  let below : Bool := if l < 0 then decide (n * 2 ^ (-l).toNat < d) else decide (n < d * 2 ^ l.toNat)
  if below then l - 1 else l

/-! ### Element formats (R115 to R121) -/

/-- An element format: precision in bits, exponent of the smallest normal, code of the largest finite magnitude,
the infinity and NaN codes where there are any, and the width. -/
structure Fmt where
  prec : Nat
  emin : Int
  top : Nat
  infc : Option Nat
  nanc : Option Nat
  width : Nat
  deriving DecidableEq, Repr

def Fmt.fp32 : Fmt := ⟨24, -126, 0x7F7FFFFF, some 0x7F800000, some 0x7FC00000, 32⟩
def Fmt.bf16 : Fmt := ⟨8, -126, 0x7F7F, some 0x7F80, some 0x7FC0, 16⟩
def Fmt.fp16 : Fmt := ⟨11, -14, 0x7BFF, some 0x7C00, some 0x7E00, 16⟩
def Fmt.e4m3 : Fmt := ⟨4, -6, 0x7E, none, some 0x7F, 8⟩
def Fmt.e5m2 : Fmt := ⟨3, -14, 0x7B, some 0x7C, some 0x7F, 8⟩
def Fmt.e2m3 : Fmt := ⟨4, 0, 31, none, none, 6⟩
def Fmt.e3m2 : Fmt := ⟨3, -2, 31, none, none, 6⟩
def Fmt.e2m1 : Fmt := ⟨2, 0, 7, none, none, 4⟩
/-- MXINT8: a step of 2^−6 throughout, held in two's complement (R116). -/
def Fmt.int8 : Fmt := ⟨7, 0, 127, none, none, 8⟩
/-- The magnitudes of B3 (R119) and T2 (R120). -/
def Fmt.b3 : Fmt := ⟨1, -1, 3, none, none, 3⟩
def Fmt.t2 : Fmt := ⟨1, 0, 1, none, none, 2⟩

/-- How a value is rounded (R136); SR carries its draw u (R137). -/
inductive Rnd
  | rne | rtz | sr (u : Nat)
  deriving DecidableEq, Repr

/-- The code of a magnitude on the format's grid continued without limit of exponent (R527). At the largest finite
magnitude a tie goes up, so that (M + G) / 2 overflows (R527). -/
def Fmt.magCode (f : Fmt) (mode : Rnd) (n d : Nat) : Nat :=
  if n = 0 then 0 else
  let e : Int := Max.max (flog2 n d) f.emin
  let q : Int := e - (f.prec - 1)
  let num := if q < 0 then n * 2 ^ (-q).toNat else n
  let den := if q < 0 then d else d * 2 ^ q.toNat
  let low := (e - f.emin).toNat * 2 ^ (f.prec - 1) + num / den
  let r := num % den
  let up : Bool := match mode with
    | .rne => decide (den < 2 * r) || (decide (2 * r = den) && (low % 2 == 1 || low == f.top))
    | .rtz => false
    | .sr u => decide (2 ^ 16 ≤ 2 ^ 16 * r / den + u)
  low + b2n up

/-- The value of a magnitude code. -/
def Fmt.magVal (f : Fmt) (s : Bool) (c : Nat) : Val :=
  let h := 2 ^ (f.prec - 1)
  let e := if c < h then 0 else c / h - 1
  let k := if c < h then c else c % h + h
  (Val.fin s k 1).shift (f.emin - (f.prec - 1) + e)

/-- What became of a value in a conversion: nothing to count, a saturation, or an Inf or NaN produced (R139). -/
inductive Outc
  | plain | sat | nonfin
  deriving DecidableEq, Repr

/-- Sign and magnitude code as the format's code. -/
def Fmt.pack (f : Fmt) (s : Bool) (c : Nat) : Nat :=
  if f = Fmt.int8 then (if s then (256 - c) % 256 else c) else b2n s * 2 ^ (f.width - 1) + c

/-- A conversion into a format (R139, R527). -/
def Fmt.encode (f : Fmt) (mode : Rnd) : Val → Nat × Outc
  | .nan => (f.nanc.getD 0, .nonfin)
  | .inf s => match f.infc with
    | some c => (f.pack s c, .nonfin)
    | none => (f.nanc.getD f.top, .nonfin)
  | .fin s n d =>
    let c := f.magCode mode n d
    if c ≤ f.top then (f.pack s c, .plain)
    else match f.infc, mode with
      | some i, .rne => (f.pack s i, .nonfin)
      | some i, .sr _ => (f.pack s i, .nonfin)
      | _, _ => (f.pack s f.top, .sat)

/-- The value of a code (R115, R116). -/
def Fmt.decode (f : Fmt) (c : Nat) : Val :=
  if f = Fmt.int8 then (if c < 128 then Val.mk false c 64 else Val.mk true (256 - c) 64)
  else
    let s := bit c (f.width - 1)
    let m := c % 2 ^ (f.width - 1)
    if m ≤ f.top then f.magVal s m
    else match f.infc with
      | some i => if m = i then .inf s else .nan
      | none => .nan

/-- A value as a binary32 code, rounded to nearest even. -/
def toF32 (v : Val) : F32 := BitVec.ofNat 32 (Fmt.fp32.encode .rne v).1
def ofF32 (x : F32) : Val := Fmt.fp32.decode x.toNat

/-- A binary32 operation result: the exact value rounded once (R145). -/
def fl (v : Val) : Val := ofF32 (toF32 v)

/-! ### Block scales -/

/-- An E8M0 scale (R116). -/
def e8m0 (b : Nat) : Val := if b = 255 then .nan else Val.one.shift ((b : Int) - 127)

/-- An E6M2 scale (R117). -/
def e6m2 (b : Nat) : Val :=
  if b = 255 then .nan else if b < 4 then .zero
  else (Val.fin false (4 + b % 4) 4).shift ((b / 4 : Nat) - 31 : Int)

/-- The smallest E6M2 code whose value is not below v, from 0x04 to 0xFE (R133). -/
def e6m2Up (v : Val) : Nat :=
  ((List.range' 4 251).find? (fun c => !(e6m2 c).lt v)).getD 0xFE

/-! ### Format codes (R176) -/

/-- Elements of a block, 0 for a plain format. -/
def blockLen (fmt : Nat) : Nat := if fmt = 0x0D then 64 else if fmt < 5 then 0 else 32

/-- EB4, B3 or T2. -/
def isRec (fmt : Nat) : Bool := fmt == 0x0B || fmt == 0x0C || fmt == 0x0D

/-- MX formats. -/
def isMx (fmt : Nat) : Bool := 5 ≤ fmt && fmt ≤ 0x0A

/-- The element format of a format code. -/
def elemFmt : Nat → Fmt
  | 0 => .fp32 | 1 => .bf16 | 2 => .fp16 | 3 => .e4m3 | 4 => .e5m2 | 5 => .e4m3 | 6 => .e5m2
  | 7 => .e2m3 | 8 => .e3m2 | 9 => .e2m1 | 10 => .int8 | 11 => .e2m1 | 12 => .b3 | _ => .t2

/-- Bytes of a plain element. -/
def elemBytes (fmt : Nat) : Nat := (elemFmt fmt).width / 8

/-- Blocks of a record (R122, R129). -/
def nBlocks (fmt : Nat) : Nat := if fmt = 0x0D then 256 else 512

/-- Bytes of a block in the element area (R122, R129). -/
def blockBytes (fmt : Nat) : Nat := blockLen fmt * (elemFmt fmt).width / 8

def pad64 (n : Nat) : Nat := (n + 63) / 64 * 64

/-- Where the areas of a record begin, in the order of R122: scales, tags, tails, promotion, end. -/
structure Areas where
  scale : Nat
  tag : Nat
  tail : Nat
  promo : Nat
  stop : Nat
  deriving DecidableEq, Repr

def areas (fmt tailCap promoCap : Nat) : Areas :=
  let a := pad64 (nBlocks fmt * blockBytes fmt)
  let b := a + pad64 (nBlocks fmt)
  if isMx fmt then ⟨a, b, b, b, b⟩ else
  let c := b + pad64 (nBlocks fmt / 2)
  let d := c + pad64 tailCap
  ⟨a, b, c, d, d + pad64 (promoCap * blockLen fmt)⟩

/-- Bytes of what a slot holds: a record (R128, R129), or the rows of a plain tile, each with room for 128 elements, or
256 in the read-out of a fused array (R157; log 17). -/
def slotBytes (fmt rows cols tailCap promoCap : Nat) : Nat :=
  if blockLen fmt = 0 then rows * (if 128 < cols then 256 else 128) * elemBytes fmt else (areas fmt tailCap promoCap).stop

/-- Whether TAIL_CAP and PROMO_CAP keep R128. -/
def capsOk (fmt tailCap promoCap : Nat) : Bool :=
  !isRec fmt || (tailCap % 64 == 0 && tailCap ≤ (if fmt = 0x0D then 512 else 1024)
    && promoCap ≤ nBlocks fmt && (fmt == 0x0D || promoCap % 2 == 0))

/-- Block of element (r, c), with the block axis (false rows, true columns), and its place there (R123). -/
def blockOf (fmt : Nat) (axis : Bool) (r c : Nat) : Nat × Nat :=
  let l := blockLen fmt
  let (x, y) := if axis then (c, r) else (r, c)
  (x * (128 / l) + y / l, y % l)

/-- Row and column of element i of block b (R123). -/
def blockElem (fmt : Nat) (axis : Bool) (b i : Nat) : Nat × Nat :=
  let l := blockLen fmt
  let x := b / (128 / l)
  let y := b % (128 / l) * l + i
  if axis then (y, x) else (x, y)

/-! ### Tiles -/

/-- The contents of a slot: format, shape within the tensor (R109), block axis, capacities (R128), bytes (a plain
tile in row order, log 17), and the lines that carry poison, numbered from the slot's first. -/
structure Tile where
  fmt : Nat
  rows : Nat
  cols : Nat
  axis : Bool
  tailCap : Nat
  promoCap : Nat
  bytes : Bytes
  bad : List Nat
  deriving DecidableEq, Repr

/-- Where an escape's tail entry stands: in its record, nowhere, or at or beyond TAIL_CAP (R130). -/
inductive EscEntry
  | held | missing | beyond
  deriving DecidableEq, Repr

/-- An element as read: its value (block scale applied), its tail value where it is escaped, and poison. -/
structure Elem where
  val : Val
  esc : Option Val
  entry : EscEntry
  taint : Bool
  deriving DecidableEq, Repr

def Tile.byteAt (t : Tile) (i : Nat) : Nat := (nth 0 t.bytes i).toNat

/-- Poison of any line that holds bytes a to a + n − 1. -/
def Tile.badAt (t : Tile) (a n : Nat) : Bool := t.bad.any (fun l => decide (l * 64 < a + n) && decide (a < l * 64 + 64))

/-- Tag nibble of a block (R125): format tag and tail count. -/
def Tile.nibble (t : Tile) (b : Nat) : Nat × Nat :=
  let n := bits (t.byteAt ((areas t.fmt t.tailCap t.promoCap).tag + b / 2)) (4 * (b % 2) + 3) (4 * (b % 2))
  (n % 4, n / 4)

/-- Read as NaN throughout, by R130: format tag 0b11 or tail count 0b11, of whatever kind (log 39). -/
def Tile.rsvd (t : Tile) (b : Nat) : Bool := (t.nibble b).1 == 3 || (t.nibble b).2 == 3

/-- The tag nibbles of the first b blocks, in order (R125). -/
def Tile.nibbles (t : Tile) (b : Nat) : List (Nat × Nat) :=
  ((slice t.bytes (areas t.fmt t.tailCap t.promoCap).tag ((b + 1) / 2)).flatMap (fun x =>
    [(bits x.toNat 1 0, bits x.toNat 3 2), (bits x.toNat 5 4, bits x.toNat 7 6)])).take b

/-- T(b) (R126) and P(b) (R127). -/
def Tile.before (t : Tile) (b : Nat) : Nat × Nat :=
  (t.nibbles b).foldl (fun (a : Nat × Nat) n =>
    if n.1 = 3 ∨ n.2 = 3 then a else match n.1 with
      | 0 => (a.1 + n.2, a.2)
      | 1 => (a.1, a.2 + 1)
      | _ => a) (0, 0)

/-- The code of element i of block b in the element area (R124). -/
def Tile.code (t : Tile) (b i : Nat) : Nat :=
  let w := (elemFmt t.fmt).width
  bits (field t.bytes (b * blockBytes t.fmt) (blockBytes t.fmt)) (w * i + w - 1) (w * i)

/-- The escape code of EB4, B3 and T2 (R118 to R120). -/
def escCode : Nat → Nat
  | 11 => 8 | 12 => 4 | _ => 2

/-- Value of a non-escaped code of EB4, B3 or T2 (R118 to R120). -/
def recVal (fmt c : Nat) : Val :=
  if fmt = 13 then (if c = 1 then .one else if c = 3 then Val.one.neg else .zero) else (elemFmt fmt).decode c

/-- What a record reader meets in block b (R130): reserved, promotion beyond the cap. -/
def Tile.promoOver (t : Tile) (b : Nat) : Bool :=
  !t.rsvd b && (t.nibble b).1 == 1 && decide (t.promoCap ≤ (t.before b).2)

/-- Escapes before element i in block b. -/
def Tile.escBefore (t : Tile) (b i : Nat) : Nat :=
  ((List.range i).filter (fun k => t.code b k == escCode t.fmt)).length

/-- Poison of a block by R131: its elements where R125 reads them from, its scale byte, its tail entries (log 39). -/
def Tile.blockTaint (t : Tile) (b : Nat) : Bool :=
  let a := areas t.fmt t.tailCap t.promoCap
  let ti := (t.before b)
  let l := blockLen t.fmt
  if isMx t.fmt then t.badAt (b * blockBytes t.fmt) (blockBytes t.fmt) || t.badAt (a.scale + b) 1 else
  t.badAt a.tag (nBlocks t.fmt / 2) || t.badAt (a.scale + b) 1 ||
  (match t.rsvd b, (t.nibble b).1 with
    | false, 0 => t.badAt (b * blockBytes t.fmt) (blockBytes t.fmt)
        || (decide (0 < (t.nibble b).2) && decide (ti.1 < t.tailCap)
          && t.badAt (a.tail + ti.1) (Nat.min (t.nibble b).2 (t.tailCap - ti.1)))
    | false, 1 => decide (ti.2 < t.promoCap) && t.badAt (a.promo + ti.2 * l) l
    | _, _ => false)

/-- Element (r, c) as read (R116, R121, R125 to R131); zero outside the shape (R109). -/
def Tile.elem (t : Tile) (r c : Nat) : Elem :=
  if t.rows ≤ r || t.cols ≤ c then ⟨.zero, none, .held, false⟩ else
  if blockLen t.fmt = 0 then
    let n := elemBytes t.fmt
    let a := (r * (if 128 < t.cols then 256 else 128) + c) * n
    ⟨(elemFmt t.fmt).decode (field t.bytes a n), none, .held, t.badAt a n⟩
  else
  let ar := areas t.fmt t.tailCap t.promoCap
  let (b, i) := blockOf t.fmt t.axis r c
  let tn := t.blockTaint b
  if isMx t.fmt then ⟨((elemFmt t.fmt).decode (t.code b i)).mul (e8m0 (t.byteAt (ar.scale + b))), none, .held, tn⟩ else
  let s := e6m2 (t.byteAt (ar.scale + b))
  if t.rsvd b then ⟨.nan, none, .held, tn⟩ else
  match (t.nibble b).1 with
  | 0 =>
    if t.code b i = escCode t.fmt then
      let j := t.escBefore b i
      let k := (t.before b).1 + j
      if (t.nibble b).2 ≤ j then ⟨.zero, some .nan, .missing, tn⟩
      else if t.tailCap ≤ k then ⟨.zero, some .nan, .beyond, tn⟩
      else ⟨.zero, some ((Fmt.e4m3.decode (t.byteAt (ar.tail + k))).mul s), .held, tn⟩
    else ⟨(recVal t.fmt (t.code b i)).mul s, none, .held, tn⟩
  | 1 =>
    let p := (t.before b).2
    if t.promoCap ≤ p then ⟨.nan, none, .held, tn⟩
    else ⟨(Fmt.e4m3.decode (t.byteAt (ar.promo + p * blockLen t.fmt + i))).mul s, none, .held, tn⟩
  | _ => ⟨.zero, none, .held, tn⟩

/-- The element's true value (R121): what the VE reads (R132). -/
def Elem.true (e : Elem) : Val := e.esc.getD e.val

/-- Steps a beat may take through a block (R86, R87, R125). -/
def Tile.steps4 (t : Tile) (r c : Nat) : Nat :=
  let whole := if t.fmt = 11 || (7 ≤ t.fmt && t.fmt ≤ 9) then 8 else if t.fmt = 12 || t.fmt = 13 then 16
    else if t.fmt = 1 || t.fmt = 2 then 1 else 4
  if isRec t.fmt && (t.nibble (blockOf t.fmt t.axis r c).1).1 == 1 && !t.rsvd (blockOf t.fmt t.axis r c).1 then 4 else whole

/-- Defects that one read of a record counts (R130): RSVD_TAG, TAIL_OVER, PROMO_OVER, escapes without an entry. -/
def Tile.defects (t : Tile) : Nat × Nat × Nat × Nat :=
  if !isRec t.fmt then (0, 0, 0, 0) else
  (List.range (nBlocks t.fmt)).foldl (fun (a : Nat × Nat × Nat × Nat) b =>
    if t.rsvd b then (a.1 + 1, a.2.1, a.2.2.1, a.2.2.2)
    else if t.promoOver b then (a.1, a.2.1, a.2.2.1 + 1, a.2.2.2)
    else if (t.nibble b).1 == 0 then
      let es := t.escBefore b (blockLen t.fmt)
      let n := Nat.min es (t.nibble b).2
      let lost := n - Nat.min n (t.tailCap - (t.before b).1)
      (a.1, a.2.1 + lost, a.2.2.1, a.2.2.2 + (es - n))
    else a) (0, 0, 0, 0)

/-! ### Stochastic rounding (R137, R138, R528) -/

/-- The VE's generators: the word from which each was seeded at the last switch-in, and those advanced since. -/
structure Gens where
  word : Nat
  moved : SMap Nat
  deriving DecidableEq, Repr

/-- State g of generator l as seeded (R138). -/
def Gens.seed (w l : Nat) : Nat :=
  let g := (w ^^^ (l * 0x9E3779B9 % 2 ^ 32)) % 2 ^ 32
  if g = 0 then 1 else g

/-- The word of R138 for a seed and a count of switch-ins. -/
def Gens.wordOf (seed k : Nat) : Nat :=
  (seed % 2 ^ 32 ^^^ seed / 2 ^ 32 % 2 ^ 32 ^^^ (k * 0x85EBCA6B % 2 ^ 32)) % 2 ^ 32

def Gens.state (g : Gens) (l : Nat) : Nat := (look g.moved l).getD (Gens.seed g.word l)

/-- One draw of a generator state: the new state (R137); the draw is its bits [31:16]. -/
def lfsr (g : Nat) : Nat := if g % 2 = 1 then g / 2 ^^^ 0x80200003 else g / 2

/-- The draw for element index i (R528). -/
def Gens.draw (g : Gens) (i : Nat) : Nat × Gens :=
  let l := i % 2048
  let n := lfsr (g.state l)
  (n / 2 ^ 16, { g with moved := put g.moved l n })

/-- A rounding of R176's code (0 RNE, 1 RTZ, 2 SR) at element index i; a NaN or an infinity takes no draw (R137). -/
def roundAt (f : Fmt) (mode : Nat) (g : Gens) (i : Nat) (v : Val) : (Nat × Outc) × Gens :=
  if mode = 2 && v.isFin then (f.encode (.sr (g.draw i).1) v, (g.draw i).2)
  else (f.encode (if mode = 0 then .rne else .rtz) v, g)

/-! ### Operand fields of a command word (R172 to R181) -/

/-- Bits hi to lo of a word. -/
def wf (w : CmdWord) (hi lo : Nat) : Nat := bits w.toNat hi lo

def opcode (w : CmdWord) : Nat := wf w 127 120
def engineOf (w : CmdWord) : Nat := wf w 119 118
def predBit (w : CmdWord) : Bool := bit w.toNat 117
def predCmp (w : CmdWord) : Nat := wf w 116 114
def predNeg (w : CmdWord) : Bool := bit w.toNat 113

/-- A count field whose 0 stands for its maximum (R177 to R181). -/
def cnt (top n : Nat) : Nat := if n = 0 then top else n

/-- An n-bit field as two's complement. -/
def sx (n v : Nat) : Int := if v < 2 ^ (n - 1) then (v : Int) else (v : Int) - (2 : Int) ^ n

/-- A 64-byte-aligned address whose bits [51:6] a field holds (R180). -/
def addr6 (v : Nat) : Nat := v * 64

end Sys2Proof.Machine
end

