-- ==== Sys2Proof/Machine/Functions.lean ====
section
/-! DEFINITION. The functions of chapter 11 (R324, R328 to R330, R343) as exact ratios that lie within 2^−250 of the true
value, relative to it or to 1, and the FP32 value that the VE forms of one (R325; log 16). -/

set_option autoImplicit false

namespace Sys2Proof.Machine

/-- Fixed point with 320 bits of fraction. -/
def fxOne : Nat := 2 ^ 320

/-- The terms of e^x from t = x^j / j! on. -/
def expSeries (x : Nat) : Nat → Nat → Nat → Nat
  | 0, _, _ => 0
  | n + 1, j, t => t + expSeries x n (j + 1) (t * x / (fxOne * (j + 1)))

/-- z + z³/3 + z⁵/5 + …, from p = z^(2j + 1) on, with z² given. -/
def oddSeries (z2 : Nat) : Nat → Nat → Nat → Nat
  | 0, _, _ => 0
  | n + 1, j, p => p / (2 * j + 1) + oddSeries z2 n (j + 1) (p * z2 / fxOne)

/-- z − z³/3 + z⁵/5 − …, from p = z^(2j + 1) on. -/
def altSeries (z2 : Nat) : Nat → Nat → Nat → Nat
  | 0, _, _ => 0
  | n + 1, j, p => p / (2 * j + 1) - altSeries z2 n (j + 1) (p * z2 / fxOne)

/-- x + x³/3!! + x⁵/5!! + …, from the term t on. -/
def phiSeries (x2 : Nat) : Nat → Nat → Nat → Nat
  | 0, _, _ => 0
  | n + 1, k, t => t + phiSeries x2 n (k + 1) (t * x2 / (fxOne * (2 * k + 3)))

/-- 2 artanh z = ln ((1 + z) / (1 − z)). -/
def artanh2 (z : Nat) : Nat := 2 * oddSeries (z * z / fxOne) 110 0 z

/-- arctan z. -/
def arctan (z : Nat) : Nat := altSeries (z * z / fxOne) 75 0 z

/-- ln 2, and π by Machin's formula. -/
def fxLn2 : Nat := artanh2 (fxOne / 3)
def fxPi : Nat := 16 * arctan (fxOne / 5) - 4 * arctan (fxOne / 239)

/-- e^x: 2^k × e^r with r below ln 2. Beyond ±300 a power of 2 stands for it, which FP32 cannot tell from it. -/
def expR (s : Bool) (n d : Nat) : Val :=
  if 300 * d < n then (if s then .fin false 1 (2 ^ 430) else .fin false (2 ^ 430) 1) else
  let x := n * fxOne / d
  if s then
    let k := x / fxLn2 + 1
    .fin false (expSeries (k * fxLn2 - x) 90 0 fxOne) (fxOne * 2 ^ k)
  else .fin false (expSeries (x % fxLn2) 90 0 fxOne * 2 ^ (x / fxLn2)) fxOne

/-- ln of a ratio above 0. -/
def lnR (n d : Nat) : Val :=
  let k := flog2 n d
  let m := if k < 0 then n * 2 ^ (-k).toNat * fxOne / d else n * fxOne / (d * 2 ^ k.toNat)
  Val.ofInt false (k * fxLn2 + artanh2 ((m - fxOne) * fxOne / (m + fxOne))) fxOne

/-- The square root of a ratio. -/
def rootR (n d : Nat) : Val := .fin false (Nat.sqrt (n * 2 ^ 700 / d)) (2 ^ 350)

/-- e^x, ln x and √x with their limits. -/
def expV : Val → Val
  | .nan => .nan
  | .inf s => if s then .zero else .inf false
  | .fin s n d => expR s n d
def lnV : Val → Val
  | .fin s n d => if n = 0 then .inf true else if s then .nan else lnR n d
  | .inf s => if s then .nan else .inf false
  | .nan => .nan
def rootV : Val → Val
  | .fin s n d => if n = 0 then .fin s n d else if s then .nan else rootR n d
  | .inf s => if s then .nan else .inf false
  | .nan => .nan

/-- σ(x) (R324). -/
def sigmoidV (x : Val) : Val := Val.one.div (Val.one.add (expV x.neg))

/-- tanh x (R324). -/
def tanhV (x : Val) : Val :=
  if x.isZero then x else
  let e := expV ((x.abs.shift 1).neg)
  let t := (Val.one.sub e).div (Val.one.add e)
  if x.sign then t.neg else t

/-- φ(x), the standard normal density (R324). -/
def densityV (x : Val) : Val := (expV ((x.mul x).shift (-1)).neg).div (rootV (.fin false (2 * fxPi) fxOne))

/-- Φ(x), the standard normal distribution function (R324). Beyond ±15 it is within 2^−165 of 0 or 1. -/
def normalV (x : Val) : Val :=
  match x with
  | .fin s n d =>
    if 15 * d < n then (if s then .fin false 1 (2 ^ 600) else .one) else
    let f := n * fxOne / d
    let t := (densityV x).mul (.fin false (phiSeries (f * f / fxOne) 520 0 f) fxOne)
    let half := Val.fin false 1 2
    if s then half.sub t else half.add t
  | v => v

/-- f of FN 3 to 7 at a finite x (R324). -/
def actR (fn : Nat) (x : Val) : Val :=
  match fn with
  | 3 => sigmoidV x
  | 4 => tanhV x
  | 5 => expV x
  | 6 => x.mul (normalV x)
  | _ => x.mul (sigmoidV x)

/-- f′ of FN 3 to 7, from the saved tensor (R324). -/
def dactR (fn : Nat) (y : Val) : Val :=
  match fn with
  | 3 => y.mul (Val.one.sub y)
  | 4 => Val.one.sub (y.mul y)
  | 5 => y
  | 6 => (normalV y).add (y.mul (densityV y))
  | _ => let g := sigmoidV y
         g.mul (Val.one.add (y.mul (Val.one.sub g)))

/-! ### The FP32 value that the VE forms -/

/-- A unit in the last place of FP32 at a magnitude. -/
def ulp32 : Val → Val
  | .fin _ n d => if n = 0 then Val.one.shift (-149) else Val.one.shift (Max.max (flog2 n d) (-126) - 23)
  | v => v

/-- The number that an FP32 code stands for, with infinity at 2^128. -/
def codeVal (c : F32) : Val := Fmt.fp32.magVal (bit c.toNat 31) (c.toNat % 2 ^ 31)

/-- An FP32 code is a number or an infinity, at most m units in the last place of `mag` from e. -/
def nearTo (m : Nat) (e mag : Val) (c : F32) : Bool :=
  decide (c.toNat % 2 ^ 31 ≤ 0x7F800000) && !(((ulp32 mag).mul (.fin false m 1)).lt ((codeVal c).sub e).abs)

/-- What the VE forms of an exact value: the free value, where it keeps the bound, else the nearest; infinities and NaN are
themselves. -/
def formed (m : Nat) (e mag : Val) (c : F32) : Val :=
  if e.isFin then (if nearTo m e mag c then ofF32 c else fl e) else e

/-- One step of a row operation, with its number, its operands, its exact result, and the magnitude that its bound goes by. -/
def stepV (tag m : Nat) (args : List Val) (e mag : Val) : Val := formed m e mag (Config.formed tag (args.map toF32))

/-- A step of one operation: within 4 units in the last place (log 16). -/
def step4 (tag : Nat) (args : List Val) (e : Val) : Val := stepV tag 4 args e e

/-- A sum or difference, by the magnitude of its operands. -/
def stepAdd (tag : Nat) (a b : Val) : Val := stepV tag 4 [a, b] (a.add b) (a.abs.add b.abs)

/-- A sum of a row divided by n, in any order: one unit in the last place of the sum of the magnitudes for each element. -/
def stepSum (tag : Nat) (xs : List Val) (n : Nat) : Val :=
  stepV tag (xs.length + 4) xs ((xs.foldl Val.add .zero).div (.fin false n 1)) (((xs.map Val.abs).foldl Val.add .zero).div (.fin false n 1))

end Sys2Proof.Machine
end

