-- ==== Sys2Proof/Machine/Flags.lean ====
section
/-! DEFINITION. Accumulator arithmetic and its flags (chapter 05), the census counts and the range guard
(chapter 04), and the counters that hold at their maximum. -/

set_option autoImplicit false

namespace Sys2Proof.Machine

/-! ### The accumulator cell (R144 to R150) -/

/-- A cell: running sum S and error term E (R144), or a partial-sum pair (R148). -/
structure Cell where
  s : F32
  e : F32
  deriving DecidableEq, Repr

def Cell.zero : Cell := ⟨0, 0⟩

/-- One binary32 addition or subtraction under R145. -/
def fadd (a b : Val) : Val := fl (a.add b)
def fsub (a b : Val) : Val := fl (a.sub b)

/-- cell_add of R146. -/
def cellAdd (c : Cell) (p : Val) : Cell :=
  let S := ofF32 c.s
  let E := ofF32 c.e
  if S.isNan || p.isNan then ⟨0x7FC00000#32, 0⟩ else
  let s := fadd S p
  if !s.isFin then ⟨toF32 s, 0⟩ else
  let bp := fsub s S
  let ap := fsub s bp
  let t := fadd (fsub S ap) (fsub p bp)
  let e := fadd E t
  if !e.isFin then ⟨toF32 e, 0⟩ else ⟨toF32 s, toF32 e⟩

/-- land of R146. -/
def landCell (c u : Cell) : Cell :=
  let c1 := cellAdd c (ofF32 u.s)
  let e := if (ofF32 c1.s).isFin then toF32 (fadd (ofF32 c1.e) (ofF32 u.e)) else c1.e
  if (ofF32 e).isFin then ⟨c1.s, e⟩ else ⟨e, 0⟩

/-- The exact value S + E of a cell, by R155 and R156: an E that is not finite enters by IEEE 754. -/
def Cell.value (c : Cell) : Val :=
  let S := ofF32 c.s
  if S.isFin then S.add (ofF32 c.e) else S

/-- A product by R88: the exact product of two scaled elements, rounded once to FP32. -/
def prod (a b : Val) : Val := fl (a.mul b)

/-- The products that a cell adds for two elements: the main one, and the escape-path one where either is escaped
(R106, R147). An escaped element counts as zero in the main product. -/
def products (a b : Elem) : List Val :=
  if a.esc.isSome || b.esc.isSome then [.zero, prod a.true b.true] else [prod a.val b.val]

/-- Escape-path contributions of one product (R107): with a tail entry, without one. A contribution whose only entries lie
at or beyond TAIL_CAP counts as neither. -/
def escCounts (a b : Elem) : Nat × Nat :=
  let es := [a, b].filter (fun x => x.esc.isSome)
  if es.any (fun x => x.entry == .missing) then (0, 1)
  else if es.any (fun x => x.entry == .held) then (1, 0) else (0, 0)

/-! ### Tile flags (R151) -/

structure TileFlags where
  ovf : Bool
  nan : Bool
  taint : Bool
  deriving DecidableEq, Repr

def TileFlags.none : TileFlags := ⟨false, false, false⟩

/-- The flags' code: bit 0 OVF, bit 1 NAN, bit 2 TAINT (R160, R166). -/
def TileFlags.code (f : TileFlags) : Nat := b2n f.ovf + 2 * b2n f.nan + 4 * b2n f.taint
def TileFlags.ofCode (n : Nat) : TileFlags := ⟨bit n 0, bit n 1, bit n 2⟩

/-- What a cell's change sets (R151): S becomes infinite or NaN. -/
def TileFlags.see (f : TileFlags) (old new : Cell) : TileFlags :=
  match ofF32 old.s, ofF32 new.s with
  | .inf _, .inf _ => f
  | .nan, .nan => f
  | _, .inf _ => { f with ovf := true }
  | _, .nan => { f with nan := true }
  | _, _ => f

def TileFlags.or (f g : TileFlags) : TileFlags := ⟨f.ovf || g.ovf, f.nan || g.nan, f.taint || g.taint⟩

/-- Add products to a cell, in order (R147), with the flags that the additions set (R151). -/
def addAll (c : Cell) (ps : List Val) : Cell × TileFlags :=
  ps.foldl (fun (a : Cell × TileFlags) p => let n := cellAdd a.1 p; (n, a.2.see a.1 n)) (c, .none)

/-- A landing with the flags that it sets. -/
def landOn (c u : Cell) : Cell × TileFlags :=
  let m := cellAdd c (ofF32 u.s)
  let n := landCell c u
  (n, (TileFlags.none.see c m).see m n)

/-! ### Read-out (R154 to R157) -/

/-- One element of a read-out: its code, and what it counts: nothing, SAT or NONFINITE (R156). -/
def readOut (fmt mode : Nat) (scale : Int) (c : Cell) : Nat × Outc :=
  let f := elemFmt fmt
  let v := c.value
  if !v.isFin then ((f.encode .rne v).1, .nonfin)
  else
    let z := v.isZero && bit c.s.toNat 31 && bit c.e.toNat 31 && decide (c.s.toNat % 2 ^ 31 = 0)
    let v' := if v.isZero then Val.fin z 0 1 else v.shift scale
    let (k, o) := f.encode (if mode = 0 then .rne else .rtz) v'
    (k, if o = .plain then .plain else .sat)

/-! ### Census counts (R141) -/

structure Census where
  blocks : Nat
  sats : Nat
  escapes : Nat
  promos : Nat
  nanInf : Nat
  escDenied : Nat
  promoDenied : Nat
  deriving DecidableEq, Repr

def Census.zero : Census := ⟨0, 0, 0, 0, 0, 0, 0⟩

def Census.add (a b : Census) : Census :=
  ⟨a.blocks + b.blocks, a.sats + b.sats, a.escapes + b.escapes, a.promos + b.promos, a.nanInf + b.nanInf,
   a.escDenied + b.escDenied, a.promoDenied + b.promoDenied⟩

/-- The counters in the order of the record (R141). -/
def Census.list (a : Census) : List Nat :=
  [a.blocks, a.sats, a.escapes, a.promos, a.nanInf, a.escDenied, a.promoDenied]

/-- A count of one outcome under R139. -/
def Census.outc (c : Census) : Outc → Census
  | .plain => c
  | .sat => { c with sats := c.sats + 1 }
  | .nonfin => { c with nanInf := c.nanInf + 1 }

/-! ### QUANT (R132 to R137) -/

/-- The parameters of R132 that choose codes. -/
structure QuantParams where
  fmt : Nat
  mean : Bool
  gain16 : Nat
  ratio : Nat
  budget : Nat
  promote : Bool
  mode : Nat
  deriving DecidableEq, Repr

/-- The defaults of R132 for a format, with a rounding (R533). -/
def QuantParams.dflt (fmt mode : Nat) : QuantParams :=
  ⟨fmt, false, 16, 6, if fmt = 0x0D then 64 else 2, true, mode⟩

/-- A record being written: bytes by area, entries used, counts and generators. -/
structure RecOut where
  elems : Bytes
  scales : Bytes
  nibs : List Nat
  tails : Bytes
  promos : Bytes
  cen : Census
  gens : Gens
  taints : List Bool
  deriving DecidableEq, Repr

/-- Codes packed as one little-endian field of w-bit codes in n bytes (R124). -/
def packCodes (w n : Nat) (cs : List Nat) : Bytes :=
  natLe n (cs.foldr (fun c a => c % 2 ^ w + 2 ^ w * a) 0)

def ratioOf : Val → Nat × Nat
  | .fin _ n d => (n, d)
  | _ => (0, 1)

/-- |x| > y. -/
def magGt (x y : Val) : Bool := y.lt x.abs

/-- Largest magnitude of a list of finite values. -/
def amaxOf (xs : List Val) : Val := xs.foldl (fun (a : Val) x => if a.lt x.abs then x.abs else a) Val.zero

/-- Mean magnitude of finite values. -/
def meanOf (xs : List Val) : Val :=
  if xs.isEmpty then .zero else (xs.foldl (fun (a : Val) x => a.add x.abs) Val.zero).div (.fin false xs.length 1)

/-- Round the listed (index, value) pairs in order, collecting codes. -/
def roundAll (f : Fmt) (mode : Nat) (base : Nat) (g : Gens) (xs : List (Nat × Val)) : List (Nat × Nat × Outc) × Gens :=
  xs.foldl (fun (a : List (Nat × Nat × Outc) × Gens) p =>
    let ((c, o), g') := roundAt f mode a.2 (base + p.1) p.2
    (a.1 ++ [(p.1, c, o)], g')) ([], g)

/-- The code of a sign and magnitude code in EB4, B3 or T2; a zero is code 0 (R116). -/
def recCode (fmt c : Nat) (s : Bool) : Nat :=
  if c = 0 then 0 else if fmt = 13 then (if s then 3 else 1)
  else if fmt = 11 then b2n s * 8 + c else b2n s * 4 + c

/-- One block of the range guard (R133). The elements are those within the shape, with their indices in the block. -/
def guardBlock (p : QuantParams) (tailCap promoCap b : Nat) (xs : List (Nat × Val)) (t : Bool) (o : RecOut) : RecOut :=
  let f := elemFmt p.fmt
  let l := blockLen p.fmt
  let emax : Val := .fin false (if p.fmt = 11 then 6 else if p.fmt = 12 then 2 else 1) 1
  let h : Val := if p.fmt = 11 then .fin false 7 1 else if p.fmt = 12 then .fin false 5 2 else .fin false 3 2
  let c448 : Val := .fin false 448 1
  let blank := zeros (blockBytes p.fmt)
  let o := { o with taints := o.taints ++ [t], cen := { o.cen with blocks := o.cen.blocks + 1 } }
  if xs.any (fun x => !x.2.isFin) then
    { o with elems := o.elems ++ blank, scales := o.scales ++ [0xFF], nibs := o.nibs ++ [0],
             cen := { o.cen with nanInf := o.cen.nanInf + (xs.filter (fun x => !x.2.isFin)).length } }
  else if xs.all (fun x => x.2.isZero) then
    { o with elems := o.elems ++ blank, scales := o.scales ++ [0], nibs := o.nibs ++ [2] }
  else
  let vs := xs.map Prod.snd
  let thr := (meanOf vs).mul (.fin false p.ratio 1)
  let isC := fun (v : Val) => decide (0 < p.ratio) && magGt v thr
  let cand := xs.filter (fun x => isC x.2)
  let body := xs.filter (fun x => !isC x.2)
  let bv := body.map Prod.snd
  let sc := if (amaxOf bv).isZero then e6m2Up ((amaxOf (cand.map Prod.snd)).div c448)
    else if p.mean then e6m2Up ((meanOf bv).mul (.fin false p.gain16 16))
    else e6m2Up ((amaxOf bv).div emax)
  let s := e6m2 sc
  let tailsLeft := tailCap - o.tails.length
  let ovr0 := decide (2 < cand.length) || decide (tailsLeft < cand.length)
  let cen1 := if 0 < cand.length ∧ tailsLeft < cand.length then { o.cen with escDenied := o.cen.escDenied + 1 } else o.cen
  let sat0 := (body.filter (fun x => magGt x.2 (h.mul s))).length + (cand.filter (fun x => magGt x.2 (c448.mul s))).length
  let ovr := ovr0 || decide (p.budget < sat0)
  if ovr && p.promote && decide (o.promos.length / l < promoCap) then
    let sp := e6m2Up ((amaxOf vs).div c448)
    let (cs, g) := roundAll .e4m3 p.mode (b * l) o.gens (xs.map (fun x => (x.1, x.2.div (e6m2 sp))))
    let bytes := (List.range l).map (fun i => match cs.find? (fun c => c.1 == i) with
      | some c => BitVec.ofNat 8 c.2.1 | none => 0)
    { o with elems := o.elems ++ blank, scales := o.scales ++ [BitVec.ofNat 8 sp], nibs := o.nibs ++ [1],
             promos := o.promos ++ bytes, gens := g, cen := { cen1 with promos := cen1.promos + 1 } }
  else
  let cen2 := if ovr && p.promote then { cen1 with promoDenied := cen1.promoDenied + 1 } else cen1
  let esc := fun (v : Val) => !ovr && isC v
  let sat := if ovr then (xs.filter (fun x => magGt x.2 (h.mul s))).length else sat0
  let r := xs.foldl (fun (a : List (Nat × Nat) × Bytes × Gens) x =>
    let q := x.2.div s
    if esc x.2 then
      let ((c, _), g) := roundAt .e4m3 p.mode a.2.2 (b * l + x.1) q
      (a.1 ++ [(x.1, escCode p.fmt)], a.2.1 ++ [BitVec.ofNat 8 c], g)
    else
      let ((c, _), g) := roundAt f p.mode a.2.2 (b * l + x.1) q.abs
      let c' := if magGt x.2 (h.mul s) then f.top else Nat.min (c % 2 ^ (f.width - 1 + b2n (f = .t2))) f.top
      (a.1 ++ [(x.1, recCode p.fmt c' x.2.sign)], a.2.1, g)) ([], [], o.gens)
  let codes := (List.range l).map (fun i => match r.1.find? (fun c => c.1 == i) with | some c => c.2 | none => 0)
  { o with elems := o.elems ++ packCodes f.width (blockBytes p.fmt) codes, scales := o.scales ++ [BitVec.ofNat 8 sc],
           nibs := o.nibs ++ [4 * r.2.1.length], tails := o.tails ++ r.2.1, gens := r.2.2,
           cen := { cen2 with escapes := cen2.escapes + r.2.1.length, sats := cen2.sats + sat } }

/-- One block of an MX conversion (R135). DESIGN CHOICE: BLOCKS counts each of the record's 512 blocks, also one wholly
outside the tensor's shape (log 68). -/
def mxBlock (fmt mode b : Nat) (xs : List (Nat × Val)) (t : Bool) (o : RecOut) : RecOut :=
  let f := elemFmt fmt
  let blank := zeros (blockBytes fmt)
  let o := { o with taints := o.taints ++ [t], cen := { o.cen with blocks := o.cen.blocks + 1 } }
  if xs.any (fun x => !x.2.isFin) then
    { o with elems := o.elems ++ blank, scales := o.scales ++ [0xFF],
             cen := { o.cen with nanInf := o.cen.nanInf + (xs.filter (fun x => !x.2.isFin)).length } }
  else
  let (n, d) := ratioOf (amaxOf (xs.map Prod.snd))
  let em : Int := if fmt = 5 then 8 else if fmt = 6 then 15 else if fmt = 7 then 2 else if fmt = 8 then 4
    else if fmt = 9 then 2 else 0
  -- zeros alone take the scale 0x00; they are rounded like any others (R116, R137)
  let e := if n = 0 then 0 else (flog2 n d - em + 127).toNat
  let (cs, g) := roundAll f mode (b * 32) o.gens (xs.map (fun x => (x.1, x.2.div (e8m0 (Nat.min e 254)))))
  -- every MX element saturates at its largest finite magnitude, E5M2 included (R135, R139)
  let fix := fun (v : Val) (c : Nat × Nat × Outc) =>
    if c.2.2 = .plain then (c.1, (if fmt = 10 && c.2.1 == 128 then 0 else c.2.1), false) else (c.1, f.pack v.sign f.top, true)
  let fs := (List.zip (xs.map Prod.snd) cs).map (fun p => fix p.1 p.2)
  let codes := (List.range 32).map (fun i => match fs.find? (fun c => c.1 == i) with | some c => c.2.1 | none => 0)
  { o with elems := o.elems ++ packCodes f.width (blockBytes fmt) codes, scales := o.scales ++ [BitVec.ofNat 8 (Nat.min e 254)],
           gens := g, cen := { o.cen with sats := o.cen.sats + (fs.filter (fun c => c.2.2)).length } }

/-- What a VE command writes into a slot. -/
structure TileOut where
  tile : Tile
  cen : Census
  gens : Gens
  deriving DecidableEq, Repr

/-- Lines a byte range touches. -/
def linesOf (a n : Nat) : List Nat := if n = 0 then [] else List.range' (a / 64) ((a + n - 1) / 64 + 1 - a / 64)

/-- A tile of values, element by element with its poison, written in a format (R123, R131 to R137, R139, R528). -/
def writeTile (p : QuantParams) (axis : Bool) (tailCap promoCap rows cols : Nat) (g : Gens) (src : Nat → Nat → Val × Bool) :
    TileOut :=
  let l := blockLen p.fmt
  if l = 0 then
    let f := elemFmt p.fmt
    let n := elemBytes p.fmt
    let r := (List.range (128 * rows)).foldl (fun (a : Bytes × List Nat × Census × Gens) i =>
      if cols ≤ i % 128 then (a.1 ++ zeros n, a.2.1, a.2.2.1, a.2.2.2) else
      let (v, t) := src (i / 128) (i % 128)
      let ((c, o), g') := roundAt f p.mode a.2.2.2 i v
      -- an FP32 target counts nothing (R139)
      (a.1 ++ natLe n c, if t then a.2.1 ++ [i * n / 64] else a.2.1, if p.fmt = 0 then a.2.2.1 else a.2.2.1.outc o, g')) ([], [], .zero, g)
    ⟨⟨p.fmt, rows, cols, axis, 0, 0, r.1, r.2.1.eraseDups⟩, r.2.2.1, r.2.2.2⟩
  else
    let o := (List.range (nBlocks p.fmt)).foldl (fun (o : RecOut) b =>
      let ix := (List.range l).filter (fun i =>
        decide ((blockElem p.fmt axis b i).1 < rows) && decide ((blockElem p.fmt axis b i).2 < cols))
      let xs := ix.map (fun i => (i, (src (blockElem p.fmt axis b i).1 (blockElem p.fmt axis b i).2).1))
      let t := ix.any (fun i => (src (blockElem p.fmt axis b i).1 (blockElem p.fmt axis b i).2).2)
      if isMx p.fmt then mxBlock p.fmt p.mode b xs t o else guardBlock p tailCap promoCap b xs t o)
      ⟨[], [], [], [], [], .zero, g, []⟩
    let ar := areas p.fmt tailCap promoCap
    let nibBytes := (List.range (nBlocks p.fmt / 2)).map (fun k =>
      BitVec.ofNat 8 (nth 0 o.nibs (2 * k) + 16 * nth 0 o.nibs (2 * k + 1)))
    let bytes := fit ar.scale o.elems ++ fit (ar.tag - ar.scale) o.scales ++
      (if isMx p.fmt then [] else fit (ar.tail - ar.tag) nibBytes ++ fit (ar.promo - ar.tail) o.tails ++ fit (ar.stop - ar.promo) o.promos)
    let t0 : Tile := ⟨p.fmt, rows, cols, axis, tailCap, promoCap, bytes, []⟩
    let bad := ((List.range (nBlocks p.fmt)).filter (fun b => nth false o.taints b)).flatMap (fun b =>
      linesOf (b * blockBytes p.fmt) (blockBytes p.fmt) ++ linesOf (ar.scale + b) 1 ++
      (if isMx p.fmt then [] else
        let tb := t0.before b
        (if (t0.nibble b).1 = 0 then linesOf (ar.tail + tb.1) (t0.nibble b).2 else []) ++
        (if (t0.nibble b).1 = 1 then linesOf (ar.promo + tb.2 * l) l else [])))
    ⟨{ t0 with bad := bad.eraseDups }, o.cen, o.gens⟩

/-- Saturating sum for counters that hold at 2^w − 1. -/
def hold (w a n : Nat) : Nat := satAdd (2 ^ w - 1) a n

end Sys2Proof.Machine
end

