-- ==== Sys2Proof/Machine/CoreTypes.lean ====
section
/-! DEFINITION. The state of a core (chapters 02 to 08 and 11): stream rings, engine queues, command core, OPE, VE, TE.
What a switch saves with the context is CoreCtx; what stays with the core is CoreHw. -/

set_option autoImplicit false

namespace Sys2Proof.Machine

/-- KIND of a descriptor (R194). -/
inductive DKind
  | tensor | index | word | remote
  deriving DecidableEq, Repr

/-- A tensor descriptor as read (R194). -/
structure Desc where
  base : Nat
  dim0 : Nat
  dim1 : Nat
  dim2 : Nat
  dim3 : Nat
  stride1 : Nat
  stride2 : Nat
  stride3 : Nat
  fmt : Nat
  valid : Bool
  kind : DKind
  axis : Bool
  orderRows : Bool
  unitRec : Bool
  tailCap : Nat
  promoCap : Nat
  ring : Option Nat
  tagBase : Nat
  index : Option Nat
  layerStride : Nat
  remote : Nat
  deriving DecidableEq, Repr

/-- FREE, FILLING, VALID (R234). -/
inductive SlotSt
  | free | filling | valid
  deriving DecidableEq, Repr

/-- Where a memory-filled slot came from (R259): none for a slot that the OPE or the VE produced. -/
inductive Source
  | made
  | walk (d : Desc) (base cursor : Nat)
  | gather (d ix : Desc) (base pos n col : Nat)
  deriving DecidableEq, Repr

/-- A slot: state, header (R235), the block axis and capacities of what it holds, and its source. -/
structure Slot where
  st : SlotSt
  tag : Nat
  fmt : Nat
  rows : Nat
  cols : Nat
  poison : Bool
  axis : Bool
  tailCap : Nat
  promoCap : Nat
  src : Source
  deriving DecidableEq, Repr

def Slot.empty : Slot := ⟨.free, 0, 0, 0, 0, false, false, 0, 0, .made⟩

/-- A ring table entry (R239). PROD: 0 MCAST, 1 OPE, 2 VE, 3 TE; CONS: 1 OPE, 2 VE, 3 TE. -/
structure RingGeom where
  valid : Bool
  baseLine : Nat
  slotLines : Nat
  slots : Nat
  prod : Nat
  cons : Nat
  replay : Nat
  group : Nat
  deriving DecidableEq, Repr

def RingGeom.none : RingGeom := ⟨false, 0, 0, 0, 0, 0, 0, 0⟩

/-- The binding of a ring (R198): handle, the copy of the descriptor, the ring's base. -/
structure Bound where
  handle : Nat
  desc : Desc
  base : Nat
  deriving DecidableEq, Repr

/-- A stream ring (R234). -/
structure Ring where
  geom : RingGeom
  slots : List Slot
  tail : Nat
  read : Nat
  head : Nat
  nextTag : Nat
  sinceHead : Nat
  bound : Option Bound
  walk : Nat
  idx : Nat
  lateSeen : Bool
  lateAt : List (Option (Nat × Nat × Nat))  -- how the arrays stood when the late slot was reached (R249)
  deriving DecidableEq, Repr

def Ring.empty : Ring := ⟨.none, [], 0, 0, 0, 0, 0, none, 0, 0, false, []⟩

/-- A queue entry's state: waiting, begun, completed and not yet retired (R183). -/
inductive QSt
  | waiting | begun | done
  deriving DecidableEq, Repr

/-- An entry of an engine queue (R182): word, stream index, its number on the queue, state. -/
structure QEntry where
  word : CmdWord
  idx : Nat
  seq : Nat
  st : QSt
  deriving DecidableEq, Repr

/-- KIND of a wait (R230). -/
inductive WKind
  | counter | mem | barrier
  deriving DecidableEq, Repr

/-- A wait in progress (R218 to R220, R226): its polls so far, the poll at which its schedule last started, the spacing of
its reads, the poll of the next read, the value last read, and whether a read is in flight. -/
structure Wait where
  kind : WKind
  idx : Nat
  obj : Nat
  expect : Nat
  timeout : Nat
  polls : Nat
  since : Nat
  spacing : Nat
  next : Nat
  last : Nat
  inFlight : Bool
  deriving DecidableEq, Repr

/-- What every engine queue holds. -/
structure Eng where
  q : List QEntry
  nextSeq : Nat
  wait : Option Wait
  held : Bool
  stopped : Bool
  uncovered : Bool
  filling : Option Nat      -- the virtual counter whose translation fill is pending (R209)
  deriving DecidableEq, Repr

def Eng.empty : Eng := ⟨[], 0, none, false, false, false, none⟩

/-- A comparator (R188). -/
structure Cmp where
  lc : Nat
  op : Nat
  imm : Nat
  deriving DecidableEq, Repr

/-- An active loop (R186, R187): body from `start` of the buffer, `len` words; next word `pos`; iteration `i`. -/
structure Frame where
  start : Nat
  len : Nat
  pos : Nat
  i : Nat
  count : Nat
  lc : Nat
  deriving DecidableEq, Repr

/-- CC state (R192). -/
structure CC where
  hdr : Nat
  base : Nat
  size : Nat
  consumer : Nat
  written : Nat
  producer : Nat
  limit : Option Nat        -- no word beyond this PRODUCER (R458)
  lcs : List Nat
  cmps : List Cmp
  buf : List CmdWord
  bufIdx : Nat
  frames : List Frame
  step : Nat
  keep : Nat
  stopped : Bool
  quiesceReq : Bool
  quiesced : Bool
  boundary : Bool           -- stopped at a command boundary by the 5 s fall-back (R458)
  waitWords : Bool
  stalled : Bool
  deriving DecidableEq, Repr

def CC.init : CC :=
  ⟨0, 0, 8, 0, 0, 0, none, List.replicate 16 0, List.replicate 8 ⟨0, 0, 0⟩, [], 0, [], 0, 0, false, false, false, false, false, false⟩

/-- EMPTY, LOADING, LOADED (R85). -/
inductive BankSt
  | empty | loading | loaded
  deriving DecidableEq, Repr

/-- An operand bank (R84, R85): state, tag, where it was loaded from (ring, slots), and the tile halves it holds. -/
structure Bank where
  st : BankSt
  tag : Nat
  ring : Nat
  slots : List Nat
  release : Bool
  axis : Bool
  seq : Nat
  block : Bool
  tiles : List Tile
  back : Bool               -- to be loaded again after a switch, before the next step (R111)
  deriving DecidableEq, Repr

def Bank.empty : Bank := ⟨.empty, 0, 0, [], false, false, 0, false, [], false⟩

/-- An array: its banks, which is active, cells (row × 128 + column), flags, and whether its last run was IS (R157). -/
structure Arr where
  b0 : Bank
  b1 : Bank
  active : Nat
  cells : SMap Cell
  flags : TileFlags
  isMode : Bool
  deriving DecidableEq, Repr

def Arr.empty : Arr := ⟨.empty, .empty, 0, [], .none, false⟩

/-- The run in progress (R97, R110): its queue entry, steps issued, beats issued, quarters of a 16-bit step issued
(R149), and the broadcast slots whose record it has begun to read (R130). -/
structure Run where
  seq : Nat
  step : Nat
  beat : Nat
  quarter : Nat
  seen : List Nat
  deriving DecidableEq, Repr

/-- A WS or IS sum in flight (R96): physical array, the row (WS) or column (IS) it lands in, the pairs. -/
structure Flight where
  arr : Nat
  isRow : Bool
  at_ : Nat
  sums : List Cell
  seq : Nat
  deriving DecidableEq, Repr

/-- A row of a row block as first read (R327): its values in A and B, whether a lane of A in it is tainted, and
which lanes of B are. -/
structure BlockRow where
  a : List F32
  b : List F32
  aTaint : Bool
  bTaint : List Bool
  deriving DecidableEq, Repr

/-- A VE command begun (R312): queue number, output slots written, where its record of counts was translated to when it
began (object and offset, R142), census counts, ADAMQ's counts (SKIPPED, NONFINITE, STATE_POISONED) and hyperparameters,
and the rows of a row block once read (R327). -/
structure VeCmd where
  seq : Nat
  tiles : Nat
  place : Nat × Nat
  cen : Census
  adam : Nat × Nat × Nat
  hyper : Bytes
  rows : List BlockRow
  deriving DecidableEq, Repr

/-- A VE write not yet landed (R202): line, its earlier contents and poison, the issue and the command that wrote it. -/
structure VeWrite where
  line : Nat
  old : Bytes
  bad : Bool
  issue : Nat
  seq : Nat
  deriving DecidableEq, Repr

/-- A TE command begun (R184, R313): units claimed so far, whether the last is claimed, the index position where it
began, index lines read (number, poison, values), the free values from which a scatter's choices count, in a group of rows and
among groups, and the group stored at each tile column and row so far (R201), its descriptors. -/
structure TeCmd where
  seq : Nat
  word : CmdWord
  idx : Nat
  done : Nat
  issuedAll : Bool
  pos : Nat
  lines : List (Nat × Bool × List Int)
  pick : Nat
  order : Nat
  landed : SMap Nat
  d : Option Desc
  d2 : Option Desc
  deriving DecidableEq, Repr

/-- What a TE operation does (R257). A row of a gather or scatter is none where nothing is read or stored, with the
poison of its index line. `reindex` reads an index line of a slot that is filled again (R259); `reload` reads a saved slot back from
the save area: ring, slot, object, offset (R315). `mcast` holds the members still to be filled and, once it has been read, the tile (R256). `late` is a store of a context that
was aborted: its own bytes (R476). -/
inductive TeOpKind
  | fill (ring slot : Nat) (rows : List (Option Nat × Bool))
  | refill (ring slot : Nat) (lines : List (Nat × Bool × List Int))
  | reindex (ring slot line : Nat)
  | reload (ring slot obj off : Nat)
  | mcast (ring : Nat) (cores : List (Nat × Nat)) (tile : Option Tile)
  | store (ring slot : Nat)
  | scatter (ring slot : Nat) (rows : List (Option Nat × Bool)) (add : Bool)
  | copy (l : List (Nat × Nat × Nat))
  | zero (l : List (Nat × Nat))
  | index (line : Nat)
  | put (ring slot p qpn : Nat)
  | madd (va v : Nat)
  | tred (p coll bucket : Nat)
  | late (l : List (Nat × Bytes × List Nat)) (add : Option Nat)
  deriving DecidableEq, Repr

/-- An operation outstanding: its number, context and command, what it does, the place in memory it works on, whether it
takes the light path, and its state: the address whose translation it waits for and those that it waited for before (R263),
its context aborted or torn down (R476, R320), refused (R265). -/
structure TeOp where
  id : Nat
  ctx : Nat
  seq : Nat
  kind : TeOpKind
  src : Source
  light : Bool
  waits : Option Nat
  got : List Nat
  dead : Bool
  refused : Bool
  deriving DecidableEq, Repr

/-- A captured stop (R204). -/
structure StopCap where
  valid : Bool
  cause : Nat
  engine : Nat
  index : Nat
  word : CmdWord
  deriving DecidableEq, Repr

/-- CORE.SYNC.TIMEOUT (R232). -/
structure TimeoutCap where
  valid : Bool
  late : Bool
  engine : Nat
  kind : Nat
  index : Nat
  deriving DecidableEq, Repr

/-- CORE.SYNC.UNFENCED (R232). -/
structure UnfencedCap where
  valid : Bool
  engine : Nat
  index : Nat
  deriving DecidableEq, Repr

/-- CORE.VE.CHECK (R204). -/
structure CheckCap where
  valid : Bool
  hits : Nat
  cmd : Nat
  line : Nat
  deriving DecidableEq, Repr

/-- The captures and counts that a switch saves with the context (R204, R231). -/
structure Caps where
  stop : StopCap
  check : CheckCap
  ixOob : Nat
  ixPoison : Nat
  timeout : TimeoutCap
  unfenced : UnfencedCap
  sunk : Nat
  sat : Nat
  misses : Nat
  deriving DecidableEq, Repr

def Caps.init : Caps := ⟨⟨false, 0, 0, 0, 0⟩, ⟨false, 0, 0, 0⟩, 0, 0, ⟨false, false, 0, 0, 0⟩, ⟨false, 0, 0⟩, 0, 0, 0⟩

/-- What a switch saves with the context (R110, R192, R231, R258, R312, R313). -/
structure CoreCtx where
  cc : CC
  ope : Eng
  ve : Eng
  te : Eng
  arrs : List Arr
  run : Option Run
  bpos : SMap (Nat × Nat)   -- broadcast ring: the slot its next step comes from, and steps issued from it
  flights : List Flight
  halted : Bool
  haltArr : List Nat
  rings : List Ring
  refills : List (Nat × Nat) -- slots still to be filled again after a switch (R259, R257)
  veCmd : Option VeCmd
  gens : Gens
  begun : List TeCmd
  check : Bool
  caps : Caps
  stuck : List TeOp         -- operations that never complete: refused, or on a queue pair in error (R265, R371)
  deriving DecidableEq, Repr

def CoreCtx.init : CoreCtx :=
  ⟨.init, .empty, .empty, .empty, List.replicate 4 .empty, none, [], [], false, [], List.replicate 32 .empty, [], none, ⟨0, []⟩, [], false, .init, []⟩

/-- A counter held in the translation cache (R209). -/
structure Ctr where
  ctx : Nat
  lcore : Nat
  id : Nat
  val : Nat
  deriving DecidableEq, Repr

/-- CORE.OPE.SKEW (R112). -/
structure SkewCap where
  valid : Bool
  multi : Bool
  pend : Bool
  array : Nat
  expected : Nat
  seen : Nat
  beat : Nat
  deriving DecidableEq, Repr

/-- Counters and captures of a core's registers (R76, R112, R143, R166, R204, R232, R260, R350). -/
structure CoreRegs where
  paceValid : Bool
  paceRate : Nat
  workBeats : Nat
  coverBeats : Nat
  maxBeats : Nat
  skew : SkewCap
  escOver : Nat
  escTaken : Nat
  tsUe : Nat
  tsPoison : Nat
  tsCe : Nat
  rsvdTag : Nat
  tailOver : Nat
  promoOver : Nat
  veEscOver : Nat
  accLast : List Nat
  roSat : Nat
  roNonfin : Nat
  roTainted : Nat
  stop : StopCap
  check : CheckCap
  ixOob : Nat
  ixPoison : Nat
  memMax : Nat
  ctrMax : Nat
  full : Nat
  timeout : TimeoutCap
  unfenced : UnfencedCap
  sunk : Nat
  sat : Nat
  misses : Nat
  late : Nat
  lateUncov : Nat
  flowPoison : Nat
  flowMcast : Nat
  flowLight : Nat
  trainState : Nat
  trainNonfin : Nat
  trainSkipped : Nat
  deriving DecidableEq, Repr

/-- The registers at start; fields that the firmware loads stand at the manual's default (log 5). -/
def CoreRegs.init : CoreRegs where
  paceValid := false
  paceRate := 0
  workBeats := 0
  coverBeats := 0
  maxBeats := 2500
  skew := ⟨false, false, false, 0, 0, 0, 0⟩
  escOver := 0
  escTaken := 0
  tsUe := 0
  tsPoison := 0
  tsCe := 0
  rsvdTag := 0
  tailOver := 0
  promoOver := 0
  veEscOver := 0
  accLast := [0, 0, 0, 0]
  roSat := 0
  roNonfin := 0
  roTainted := 0
  stop := ⟨false, 0, 0, 0, 0⟩
  check := ⟨false, 0, 0, 0⟩
  ixOob := 0
  ixPoison := 0
  memMax := 32
  ctrMax := 8
  full := 16
  timeout := ⟨false, false, 0, 0, 0⟩
  unfenced := ⟨false, 0, 0⟩
  sunk := 0
  sat := 0
  misses := 0
  late := 0
  lateUncov := 0
  flowPoison := 0
  flowMcast := 0
  flowLight := 0
  trainState := 0
  trainNonfin := 0
  trainSkipped := 0

/-- The cover window of an array (R66, R67): beats since its last work beat, and where it stands. -/
inductive CoverSt
  | work | cover | ramp | idle
  deriving DecidableEq, Repr

/-- What stays with the core. -/
structure CoreHw where
  regs : CoreRegs
  cover : List (CoverSt × Nat)
  beats : List (Nat × Nat)  -- by array: beats taken so far, and how often its cover window has ended (R249)
  tstore : Mem
  tbad : SMap Bool
  lastLines : List Nat
  ctrs : List Ctr
  descs : SMap Desc
  ops : List TeOp
  nextOp : Nat
  issue : Nat
  writes : List VeWrite
  progress : List Nat       -- words dispatched; OPE, VE, TE progress (R468)
  retired : List Nat        -- commands retired, by engine number (R204)
  ctrMoves : Nat            -- changes of counters so far, which stall sampling compares (R228)
  paceAt : Nat              -- local time at which the reference interval under way began (R57, R75)
  lateSigs : SMap Nat       -- SIGNALs behind the operations of a context torn down, by context: they go to the sink (R211)
  deriving DecidableEq, Repr

def CoreHw.init : CoreHw :=
  ⟨.init, List.replicate 4 (.idle, 0), List.replicate 4 (0, 0), [], [], [], [], [], [], 0, 0, [], [0, 0, 0, 0], [0, 0, 0, 0], 0, 0, []⟩

/-- A core, with the context, partition and logical number it serves when a context is resident on it. -/
structure Core where
  cx : CoreCtx
  hw : CoreHw
  ctx : Option Nat
  part : Nat
  lcore : Nat
  deriving DecidableEq, Repr

def Core.init : Core := ⟨.init, .init, none, 0, 0⟩

end Sys2Proof.Machine
end

