-- ==== Sys2Proof/Machine/UnitTypes.lean ====
section
/-! DEFINITION. The state outside the cores: memory and objects (09), partitions and contexts (10), ports (12),
collectives (13), cellar, sessions and host rings (14), faults (15), coppice, sensors and I3C (16), power (01, 02). -/

set_option autoImplicit false

namespace Sys2Proof.Machine

/-! ### Objects, windows, translation (09) -/

/-- A window (R262). -/
structure Window where
  base : Nat
  granules : Nat
  offset : Nat
  obj : Nat
  rd : Bool
  wr : Bool
  at_ : Bool
  deriving DecidableEq, Repr

/-- Granule states (R278). -/
inductive GSt
  | far | promoting | near | demoting | nearOnly
  deriving DecidableEq, Repr

/-- A granule entry (R278): frames in 64 KiB units within the die. -/
structure Gran where
  st : GSt
  dirty : Nat
  far : Nat
  near : Nat
  deriving DecidableEq, Repr

/-- STATE codes of a granule entry (R278). -/
def GSt.code : GSt → Nat
  | .far => 0 | .promoting => 1 | .near => 2 | .demoting => 3 | .nearOnly => 4

/-- A granule entry as the granule table holds it (R278). -/
def Gran.entry (e : Gran) : Bytes :=
  natLe 8 (e.st.code * 2 ^ 61 + e.dirty % 2 ^ 16 * 2 ^ 42 + e.far % 2 ^ 22 * 2 ^ 20 + e.near % 2 ^ 20)

/-- A window as the window table holds it (R262). -/
def Window.entry (w : Window) : Bytes :=
  natLe 8 w.base ++ natLe 4 w.granules ++ natLe 4 w.offset ++ natLe 4 w.obj
    ++ natLe 1 (128 + 4 * b2n w.at_ + 2 * b2n w.wr + b2n w.rd) ++ zeros 11

/-- Work of a racking engine on an object (R273, R282, R283). -/
inductive RWork
  | zero | promote | demote | flush
  deriving DecidableEq, Repr

/-- A request waiting at an object (R283): kind, context, and the request taken that it completes (none: teardown). -/
structure RackReq where
  kind : RWork
  ctx : Nat
  uid : Option Nat
  deriving DecidableEq, Repr

/-- An object (R274), with its granule table, its queue, the work under way and the context whose request that serves (R320),
granules not begun and begun, the DIRTY bits each begun operation took (R282), the requests that complete with the work, and
the session that created it. -/
structure Obj where
  granules : Nat
  policy : Nat
  st : Nat
  clusters : Nat
  engine : Nat
  pins : Nat
  maps : Nat
  grans : List Gran
  queue : List RackReq
  work : Option RWork
  serves : Nat
  todo : List Nat
  live : List Nat
  took : SMap Nat
  finish : List Nat
  sess : Nat
  ready : Bool
  deriving DecidableEq, Repr

/-- What a write that waits for a granule does: store its bytes; add its word; raise the word to its value (R227). -/
inductive Put
  | store | add | raise
  deriving DecidableEq, Repr

/-- A write of one line, translated and held in a translation unit until the granule has moved (R279): its context, object
and offset, what it does, its bytes, whether it carries poison, and the cluster that it comes from. -/
structure Owed where
  ctx : Nat
  obj : Nat
  off : Nat
  put : Put
  bytes : Bytes
  bad : Bool
  from_ : Nat
  deriving DecidableEq, Repr

/-- A capture of MEM.XLATE.FAULT (R292). -/
structure XFault where
  valid : Bool
  kind : Nat
  engine : Nat
  lcore : Nat
  va : Nat
  deriving DecidableEq, Repr

/-- Error counts of a memory channel (R292). -/
structure Errs where
  ue : Nat
  poison : Nat
  ce : Nat
  deriving DecidableEq, Repr

/-- A cluster: delay monitor (R55, R56), translation unit (R263), near channel group. -/
structure Cluster where
  tap : Nat
  above : Nat
  halted : Bool
  xfault : XFault
  winMiss : Nat
  granMiss : Nat
  winCache : List (Nat × Nat)
  granCache : List (Nat × Nat)
  xlated : Nat
  near : Errs
  accesses : Nat
  copying : List Nat        -- banks being copied (R506)
  deriving DecidableEq, Repr

def Cluster.init : Cluster := ⟨0, 0, false, ⟨false, 0, 0, 0, 0⟩, 0, 0, [], [], 0, ⟨0, 0, 0⟩, 0, []⟩

/-- A racking engine (R276, R292): operations completed, counts, and whether it is under reset. -/
structure Rack where
  done : Nat
  sectors : Nat
  demoted : Nat
  promoted : Nat
  deriving DecidableEq, Repr

def Rack.init : Rack := ⟨0, 0, 0, 0⟩

/-! ### Faults (15) -/

/-- A fault record (R463). -/
structure Fault64 where
  ctx : Nat
  cls : Nat
  sev : Nat
  die : Nat
  unit : Nat
  index : Nat
  time : Nat
  whereAt : Nat
  a : Nat
  b : Nat
  step : Nat
  keep : Nat
  seq : Nat
  lcore : Nat
  engine : Nat
  flags : Nat
  sample : Nat
  deriving DecidableEq, Repr

/-- Recoveries called for and not yet taken (R474). -/
inductive Due
  | l0 (ctx : Nat)
  | l1port (p : Nat)
  | l1rack (d e : Nat)
  | l2 (d first : Nat)
  | l3 (d : Nat)
  | l4 (dump : Bool)
  deriving DecidableEq, Repr

/-- A cellar core (R448 to R452, R462): STATE (0 ROM, 1 RUNNING, 2 RESTARTING, 3 UPDATING, 4 RETIRED, 5 SPARE), ROLE, its counts and
its watchdog; the segment in its protected SRAM (R433); and while it restarts, when that ends and the WHAT of the CELLAR event. -/
structure CellarCore where
  st : Nat
  role : Nat
  wdog : Nat
  restarts : Nat
  window : Nat
  kick : Nat
  lastRestart : Option Nat
  code : Bytes
  ends : Option (Nat × Nat)
  deriving DecidableEq, Repr

def CellarCore.init : CellarCore := ⟨0, 0, 0, 0, 20, 0, none, [], none⟩

/-- The errors of one unit in the 24 h window (R502): map-entry kind, unit, sub, where; times of the errors. -/
structure RateCount where
  kind : Nat
  unit : Nat
  sub : Nat
  whereAt : Nat
  times : List Nat
  deriving DecidableEq, Repr

/-- A JTAG TAP (R47): instruction, data register, boundary cells, whether the cells drive the pins. -/
inductive TapIr
  | bypass | idcode | sample | extest | extestPulse | extestTrain
  deriving DecidableEq, Repr

structure Tap where
  ir : TapIr
  dr : List Bool
  cells : List Bool
  driven : Bool
  deriving DecidableEq, Repr

/-- A die: power, current, sensors, cellar, health, coppice. -/
structure Die where
  railsOn : Bool            -- core-side rails of R26
  dramOn : Bool             -- VNEAR, VDD1, VDD2, VDDQ
  railBad : Bool            -- a rail has left tolerance (R41)
  railsAt : Nat             -- local time at which the core-side rails came up (R57)
  set : Nat
  actual : Nat
  busy : Bool
  upRate : Nat
  downRate : Nat
  adm : Nat
  admitCap : Nat
  est : Nat
  meas : Nat
  vmin : Nat
  vmax : Nat
  capW : Option Nat
  throttled : Bool
  thrV : Nat
  thrA : Nat
  coolSince : Option Nat
  lastThr : Option Nat
  sensors : SMap Int
  amps : SMap Int
  time : Nat
  cellar : SMap CellarCore
  segs : List (Nat × Bytes) -- the copies of the CODE segments in its firmware area, by ROLE (R433)
  reports : List Fault64
  repDropped : Nat
  log : List Fault64
  seq : Nat
  cEcc : Nat
  cPoison : Nat
  cStall : Nat
  cHang : Nat
  hangWin : Nat
  hang : SMap (Nat × Nat)
  far : SMap Errs
  farAcc : SMap Nat
  links : SMap Nat
  scrubNear : SMap Nat      -- lines that each near group's scrubber has read since start (R291)
  scrubFar : SMap Nat       -- and each far channel's
  rates : List RateCount
  tapAt : List Nat          -- times of tap-7 events, near and tile-store corrected errors (R526)
  nearAt : List Nat
  tsAt : List Nat
  tap : Tap
  noFar : Bool              -- no far memory of the die works (R493, R498)
  lame : Bool               -- a unit that service needs does not work (R498)
  deriving DecidableEq, Repr

def Die.init : Die where
  railsOn := false
  dramOn := false
  railBad := false
  railsAt := 0
  set := 10
  actual := 10
  busy := false
  upRate := 40
  downRate := 40
  adm := 64
  admitCap := 64
  est := 0
  meas := 0
  vmin := 10
  vmax := 50
  capW := none
  throttled := false
  thrV := 0
  thrA := 0
  coolSince := none
  lastThr := none
  sensors := []
  amps := []
  time := 0
  cellar := []
  segs := []
  reports := []
  repDropped := 0
  log := []
  seq := 0
  cEcc := 0
  cPoison := 0
  cStall := 0
  cHang := 0
  hangWin := 50000
  hang := []
  far := []
  farAcc := []
  links := []
  scrubNear := []
  scrubFar := []
  rates := []
  tapAt := []
  nearAt := []
  tsAt := []
  tap := ⟨.idcode, [], [], false⟩
  noFar := false
  lame := false

/-! ### Partitions and contexts (10) -/

/-- A barrier of a partition (R225, R226): record, R, G_p, lcores whose arrival is stalled. -/
structure Barrier where
  cores : Nat
  valid : Bool
  engine : Nat
  word : Nat
  r : Nat
  g : SMap Nat
  stalled : List Nat
  deriving DecidableEq, Repr

def Barrier.empty : Barrier := ⟨0, false, 0, 0, 0, [], []⟩

/-- States of a partition (R295). -/
inductive PSt
  | inService | inClearing | fenced
  deriving DecidableEq, Repr

/-- A switch asked for (R310): the incoming context (none: only a switch-out, R458), MODE, the request it completes, and
whether it has begun and waits for issued operations (R316). -/
structure Switch where
  ctx : Option Nat
  mode : Nat
  uid : Option Nat
  begun : Bool
  deriving DecidableEq, Repr

structure Part where
  clusters : Nat
  duo : Bool
  st : PSt
  resident : Option Nat
  phys : List Nat
  sw : Option Switch
  count : Nat
  last : Nat
  drain : Nat
  timeouts : Nat
  applies : Nat
  resets : Nat
  aborted : Nat
  resumed : Nat
  lastReset : Nat
  lastResetAt : Option Nat
  barriers : List Barrier
  stream : List RingGeom    -- STREAM defaults (R299)
  groups : SMap Nat         -- multicast groups: members (R298)
  spareDue : Option Nat     -- a spare-in waiting for a switch-in, and when it was scheduled (R503, R504)
  forced : Bool             -- the forced switch of R504 has begun and waits for issued operations
  deriving DecidableEq, Repr

def Part.init : Part :=
  ⟨1, false, .inService, none, [], none, 0, 0, 0, 0, 0, 0, 0, 0, 0, none, List.replicate 16 .empty, [], [], none, false⟩

/-- States of a context (R307), with their codes in order. -/
inductive CtxSt
  | free | stopped | resident | held | aborted | retained | closing
  deriving DecidableEq, Repr

def CtxSt.code : CtxSt → Nat
  | .free => 0 | .stopped => 1 | .resident => 2 | .held => 3 | .aborted => 4 | .retained => 5 | .closing => 6

/-- A context: its record (R308) and what the firmware keeps with it. -/
structure Ctx where
  st : CtxSt
  part : Nat
  check : Bool
  duo : Bool
  clusters : Nat
  seed : Nat
  ins : Nat
  stallWin : Nat
  sess : Nat
  cmdRings : Nat
  descTable : Nat
  descLen : Nat
  counters : Nat
  barVa : Nat
  ringVa : Nat
  stream : List RingGeom    -- the table of a context created without one (R239)
  diag : Nat
  save : List Nat
  windows : List Window
  pins : SMap Nat
  saved : SMap CoreCtx
  savedBars : List Barrier
  qps : SMap (Nat × Nat)    -- handle: port, number
  colls : SMap (Nat × Nat)  -- handle: port, index
  uid : Option Nat          -- a CTX_DESTROY under way
  closedAt : Nat
  escalated : Bool          -- its teardown has been escalated (R321)
  fp : SMap (List Nat × Nat)
  words : SMap Nat          -- the words that its queues await, as last sampled, and how often one had changed (R228)
  wordMoves : Nat
  leaseQuiesce : Option Nat -- asked to quiesce at expiry, when (R458)
  next : Option (Bool × Nat) -- CHECK and STALL_WINDOW from the next switch-in on (R309)
  evicted : Bool            -- its pins have been sent through the objects' queues (R286)
  deriving DecidableEq, Repr

def Ctx.init : Ctx :=
  ⟨.free, 0, false, false, 1, 0, 0, 50000, 0, 0, 0, 0, 0, 0, 0, [], 0, [], [], [], [], [], [], [], none, 0, false, [], [], 0, none, none, false⟩

/-- What leaves the block, in order (log 8). -/
inductive Out
  | ack (p qpn psn : Nat)
  | nak (p qpn psn : Nat) (k : NakKind)
  | rnrNak (p qpn psn timer : Nat)
  | cnp (p qpn : Nat)
  | readData (p qpn psn : Nat) (data : Bytes)
  | atomicData (p qpn psn : Nat) (old : Nat)
  | write (p qpn psn va key : Nat) (data : Bytes) (mask : List Bool) (imm : Option Nat)
  | send (p qpn : Nat) (data : Bytes)
  | sess (p ip type : Nat) (body : Bytes)
  | coll (p ip udp : Nat) (k : CollPkt)
  | arp (p : Nat) (dest : Nat)
  | nd (p : Nat) (dest : Nat)
  | echo (p : Nat) (dest : Nat) (data : Bytes)
  | pfc (p prio quanta : Nat)
  | ibi (b : Nat)
  | i3c (bs : Bytes)
  | tdo (bs : List Bool)
  deriving DecidableEq, Repr

/-! ### Ports (12) -/

/-- Whom a queue pair or a key serves. -/
inductive Owner
  | ctx (id : Nat)
  | rings (sess : Nat)
  | boot
  | dump
  deriving DecidableEq, Repr

/-- A packet sent and not acknowledged (R370, R371): PSN, the core and TE operation it belongs to, whether it is that
slot's last, whether it has gone out, and what it carries. -/
structure SentPkt where
  psn : Nat
  core : Nat
  op : Nat
  last : Bool
  onWire : Bool
  send : Bool
  va : Nat
  key : Nat
  data : Bytes
  mask : List Bool
  imm : Option Nat
  deriving DecidableEq, Repr

/-- A queue pair (R365, R366). Rates are in 1/32768 of the line rate. `held` are the requests that wait behind a granule
(R369): 0 WRITE, 1 READ, 2 FETCH_AND_ADD. `rnrWait` says that the wait after an RNR NAK runs. -/
structure Qp where
  gen : Nat
  owner : Owner
  handle : Nat
  remoteIp : Nat
  remoteQpn : Nat
  localIp : Nat
  psnSend : Nat
  psnRecv : Nat
  mtu : Nat
  mark : Bool
  ackCode : Nat
  retries : Nat
  rnr : Nat
  retriesLeft : Nat
  rnrLeft : Nat
  error : Bool
  rate : Nat
  lastCut : Option Nat
  rateSince : Option Nat    -- the last CNP or rise, in the die's time (R362)
  lastCnpTx : Option Nat
  unacked : List SentPkt
  held : List (Nat × RocePkt)
  mid : Bool                -- an inbound WRITE message is accepted in part (R322)
  rnrWait : Bool
  live : Bool
  deriving DecidableEq, Repr

/-- A memory key (R367): generation, whom it serves, base, length, rights. -/
structure Key where
  gen : Nat
  owner : Owner
  base : Nat
  len : Nat
  rd : Bool
  wr : Bool
  at_ : Bool
  live : Bool
  deriving DecidableEq, Repr

/-! ### Collectives (13) -/

/-- States of a collective context (R399). -/
inductive CollSt
  | open_ | held | failed | closed
  deriving DecidableEq, Repr

/-- A member entry (R398). -/
structure Member where
  ip : Nat
  udp : Nat
  inc : Nat
  reset : Bool              -- a PEER_RESET raised for it and no REJOIN yet (R420, R421)
  ctlSeen : List Nat        -- control numbers of its incarnation that were acted on (R415)
  deriving DecidableEq, Repr

/-- A bucket entry (R400) and its place in its window and round (R401 to R409): steps taken in the window, the number
the next round takes, the epoch, whether a round is in flight, whether all its results are written, whether it is a
restart of a round already complete, exponent bytes by block (own, agreed), chunks written (segment, chunk), the lane
generators, an ALLGATHER's own tensor, the start of the round. -/
structure Bucket where
  num : Nat
  kind : Nat
  group : Nat
  sr : Bool
  len : Nat
  accum : Nat
  result : Nat
  done : Nat
  n : Nat
  stepIn : Nat
  round : Nat
  epoch : Nat
  active : Bool
  complete : Bool
  redo : Bool
  heldUp : Bool             -- a round abandoned in HELD, to be run again (R420, R421)
  scales : List Nat
  agreed : List (Option Nat)
  wrote : List (Nat × Nat)
  gens : Gens
  src : Option (Desc × Nat)
  startAt : Nat
  deriving DecidableEq, Repr

/-- A packet of the link not yet acknowledged (R412). -/
structure LinkPkt where
  pkt : CollPkt
  answered : Bool
  onWire : Bool
  deriving DecidableEq, Repr

/-- A control packet not yet acknowledged (R415): member, type, number, when first sent. -/
structure CtlPkt where
  member : Nat
  type : Nat
  num : Nat
  since : Nat
  deriving DecidableEq, Repr

/-- A collective context (R397 to R399). -/
structure Coll where
  ctx : Nat
  handle : Nat
  st : CollSt
  job : Nat
  m : Nat
  own : Nat
  inc : Nat
  window : Nat
  members : List Member
  buckets : List Bucket
  sendSeq : Nat
  recvSeq : Nat
  unacked : List LinkPkt
  ctlNum : SMap Nat
  ctls : List CtlPkt
  rate : Nat
  lastCut : Option Nat
  rateSince : Option Nat    -- the last ECE or rise, in the die's time (R416)
  deriving DecidableEq, Repr

/-- The MACsec protection of a frame sent (R374, R375): its SCI, association number, SSCI and packet number, under the cipher
suite GCM-AES-XPN-256 with confidentiality offset 0. -/
structure SecTag where
  sci : Nat
  an : Nat
  ssci : Nat
  pn : Nat
  deriving DecidableEq, Repr

/-- What a port puts before the content of a frame (R355, R356, R359, R361, R375): the link address of the next hop, the VLAN ID
and priority of its tag, the DSCP, whether it is ECT(0), and its MACsec protection. -/
structure Head where
  mac : Nat
  vlan : Option (Nat × Nat)
  dscp : Nat
  ect : Bool
  sec : Option SecTag
  deriving DecidableEq, Repr

/-- The secure channels of a port (R374, R375): SAK, salt, and the last packet number sent and received under them. -/
structure Macsec where
  sak : Bytes
  salt : Bytes
  sent : Nat
  got : Nat
  deriving DecidableEq, Repr

/-- What stands on a port's link (R355; log 8): the question, by ARP or Neighbour Discovery, who a next hop is, or the header
of the next frame of State.out. -/
inductive Sent
  | ask (next : Nat)
  | head (h : Head)
  deriving DecidableEq, Repr

/-- A port: link, addresses, classes, counters, queue pairs, collectives (R353 to R424). -/
structure Port where
  up : Bool
  rate : Nat
  start : Nat
  role : Nat
  lanes : Nat
  attempts : Nat
  trying : Bool
  failed : Bool
  noRef : Bool              -- its reference is absent: it stays down (R46)
  macsec : Option Macsec
  an : Nat
  qos : Nat
  dscp : Nat
  ratectl : Nat
  fecUncorr : Nat
  downs : Nat
  fecCorr : Nat
  rnrSent : Nat
  accNak : Nat
  seqNak : Nat
  unknown : Nat
  cnpRx : Nat
  cnpTx : Nat
  pfcTx : Nat
  pfcRx : Nat
  dOver : Nat
  dUnsup : Nat
  dBuf : Nat
  dIcv : Nat
  v4 : Option (Nat × Nat × Nat)
  v6 : Option (Nat × Nat × Nat)
  vlan : Option Nat
  paused : SMap Nat
  xoff : List Nat
  waiting : List (Nat × Nat × Out)  -- frames that a pause holds back, with their class and where they go (R360)
  neigh : SMap Nat          -- next hops resolved, with their link addresses (R355)
  asked : List Nat          -- next hops asked for and not resolved
  sent : List Sent          -- what it has put on its link since its start
  qps : SMap Qp
  colls : SMap Coll
  redOn : Bool
  udp : Nat
  packets : Nat
  cRestarted : Nat
  cAbandoned : Nat
  cCompleted : Nat
  wSat : Nat
  wPoison : Nat
  wNotReady : Nat
  xInc : Nat
  xEpoch : Nat
  xHeader : Nat
  xHop : Nat
  deriving DecidableEq, Repr

/-- A port at start, its settings at the manual's defaults (R359, R362, R396). -/
def Port.init : Port where
  up := false
  rate := 0
  start := 0
  role := 0
  lanes := 0
  attempts := 0
  trying := false
  failed := false
  noRef := false
  macsec := none
  an := 0
  qos := 0x08 * 2 ^ 16 + 6 * 2 ^ 12 + 6 * 2 ^ 9 + 3 * 2 ^ 6 + 3 * 2 ^ 3
  dscp := 48 * 2 ^ 24 + 48 * 2 ^ 16 + 26 * 2 ^ 8 + 24
  ratectl := 8 * 2 ^ 26 + 20 * 2 ^ 16 + 55 * 2 ^ 6
  fecUncorr := 0
  downs := 0
  fecCorr := 0
  rnrSent := 0
  accNak := 0
  seqNak := 0
  unknown := 0
  cnpRx := 0
  cnpTx := 0
  pfcTx := 0
  pfcRx := 0
  dOver := 0
  dUnsup := 0
  dBuf := 0
  dIcv := 0
  v4 := none
  v6 := none
  vlan := none
  paused := []
  xoff := []
  waiting := []
  neigh := []
  asked := []
  sent := []
  qps := []
  colls := []
  redOn := false
  udp := 47970
  packets := 0
  cRestarted := 0
  cAbandoned := 0
  cCompleted := 0
  wSat := 0
  wPoison := 0
  wNotReady := 0
  xInc := 0
  xEpoch := 0
  xHeader := 0
  xHop := 0

/-! ### Sessions and host rings (12, 14) -/

/-- A session (R384 to R390) with its rings (R436 to R447) and lease (R457). -/
structure Session where
  ip : Nat
  port : Nat
  role : Nat
  mode : Nat
  keyHash : Bytes
  master : Bytes
  seqIn : Nat
  seqOut : Nat
  lastReq : Nat
  lastResp : Option Bytes
  token : Nat
  expired : Bool
  closing : Bool
  unloaded : Bool
  rings : List (Nat × Nat)
  opened : Bool
  subLog : Nat
  cplLog : Nat
  evtLog : Nat
  evtThr : Nat
  cplThr : Nat
  delay : Nat
  space : Mem
  args : Option Nat
  subCons : Nat
  subProd : Nat
  cplProd : Nat
  cplCons : Nat
  cplHeld : Nat
  evtProd : Nat
  evtCons : Nat
  faultProd : Nat
  evtDropped : Nat
  sinceOver : Nat
  leaseMs : Nat
  reclaimS : Nat
  nextLease : Option (Nat × Nat)
  count : Nat
  touched : Nat
  nseq : Nat
  nudged : SMap Nat
  lastMsg : Nat
  evtAt : List Nat          -- boot-die times at which the unread events were written (R447)
  cplAt : List Nat
  rose : List Nat           -- ports on which a nudge is due for a threshold reached (R447)
  deriving DecidableEq, Repr

/-- An attempt to open a session (R385). -/
structure Attempt where
  ip : Nat
  port : Nat
  mode : Nat
  keyHash : Bytes
  nonce : Bytes
  cert : Bytes
  proof : Bytes
  ss : Bytes
  th2 : Bytes
  since : Nat
  answer : Option (Nat × Bytes) -- the ACCEPT or REFUSE sent: TYPE and message
  deriving DecidableEq, Repr

/-- A reclaim record (R390, R459). -/
structure Reclaim where
  sess : Nat
  ends : Nat
  deriving DecidableEq, Repr

/-- A request taken and not completed (R442). -/
structure Taken where
  uid : Nat
  sess : Nat
  code : Nat
  reqId : Nat
  fields : Bytes
  running : Bool
  deriving DecidableEq, Repr

/-- A firmware image as loaded (R431). -/
structure Image where
  release : Nat
  major : Nat
  schema : Nat
  digest : Bytes
  code : List (Nat × Bytes) -- ROLE and bytes of the CODE segments, which every firmware area holds (R433)
  deriving DecidableEq, Repr

/-- Firmware and boot responder (R394, R395, R428 to R434, R454 to R456). -/
structure Fw where
  bootDie : Nat
  elected : Bool
  loaded : Bool
  inService : Bool
  candidates : Nat
  badImages : Nat
  image : Image
  update : Option (Image × Nat × Nat) -- a live update: its image, its request, the core being updated in the order of R455
  staging : Mem
  startMap : Bytes          -- the measurement of the coppice map as applied at start (R393)
  stopping : Bool           -- an orderly shutdown has begun (R512)
  serviceAt : Nat
  deriving DecidableEq, Repr

/-! ### Trellis (10) -/

structure Trellis where
  result : Nat
  scope : Nat
  applied : Bool
  serial : Nat
  digest : Bytes
  partDigests : SMap Bytes
  routes : List (Nat × Nat × Nat × Nat)
  modCap : Option Nat
  applying : Option (Nat × Nat × Nat × Bytes)   -- a partition-scope apply in its quiesce: die, first, clusters, image
  uid : Option Nat
  deriving DecidableEq, Repr

/-! ### Coppice, NOR, sensors, I3C (16) -/

/-- A map entry (R509). -/
structure MapEntry where
  kind : Nat
  die : Nat
  st : Nat
  source : Nat
  unit : Nat
  sub : Nat
  whereAt : Nat
  deriving DecidableEq, Repr

/-- A copy of the map in NOR (R509): whether its CHECK holds, GENERATION, START_COUNT, the entries, SAMPLE_CURSOR by die. -/
structure MapCopy where
  ok : Bool
  gen : Nat
  start : Nat
  entries : List MapEntry
  cursors : List Nat
  deriving DecidableEq, Repr

/-- An event-log entry (R520), whose CHECK follows from its other bytes. -/
structure LogEntry where
  type : Nat
  die : Nat
  start : Nat
  time : Nat
  body : Bytes
  deriving DecidableEq, Repr

/-- An enrolled owner (R378). -/
structure OwnerKey where
  admin : Bool
  key : Bytes
  hash : Bytes
  deriving DecidableEq, Repr

/-- The identity record (R378). -/
structure IdRec where
  owners : List OwnerKey
  signed : Bool
  pwAllowed : Bool
  macsecReq : Bool
  bootAuth : Bool
  password : Option (Bytes × Bytes)
  failures : Nat
  bootAddr : Option (Nat × Nat)
  resets : Nat
  dumpGib : Nat
  starts : Nat
  interrupted : Nat         -- in µs; AVAIL.COUNTS shows ms
  service : Nat             -- in periods of 25 MHz; AVAIL.COUNTS shows minutes
  claimFails : Nat          -- consecutive failed claim proofs; `failures` are those of passwords (R381)
  deriving DecidableEq, Repr

/-- A copy of the identity record in NOR (R74, R508): whether its check code holds, and what it holds. -/
structure IdCopy where
  ok : Bool
  kept : IdRec
  deriving DecidableEq, Repr

/-- The NOR flash (R25, R378, R508 to R511, R520), in the order of R508's table, behind the identity record as the boot
die's cellar works with it. -/
structure Nor extends IdRec where
  ok : Bool
  lastTry : Nat
  idA : IdCopy
  idB : IdCopy
  copyA : MapCopy
  copyB : MapCopy
  log : List LogEntry
  deriving DecidableEq, Repr

/-- The dump region (R493, R494): STATE and LEVEL, the region's size, the samples in the store (number, offset, length,
SEQ of the cause), the samples taken and the dumps skipped since start, and the bytes of the region. -/
structure Dump where
  st : Nat
  level : Nat
  size : Nat
  samples : List (Nat × Nat × Nat × Nat)
  tables : List Bytes       -- wait tables written since start (R230)
  taken : Nat
  skipped : Nat
  bytes : Mem
  die : Nat                 -- the boot die whose far memory holds the region
  deriving DecidableEq, Repr

/-- The I3C target (R523 to R525). -/
structure I3c where
  static : Option Nat
  dyn : Option Nat
  ibi : Bool
  off : Nat
  alert : Nat
  testFails : Nat
  testNotRun : Nat
  testDone : Bool
  deriving DecidableEq, Repr

/-- Changes of the identity record that wait until NOR may be written (R25, R72): the failure count (R381), starts, service
and interrupted time (R516). -/
structure IdWait where
  failures : Option (Nat × Nat)
  starts : Nat
  service : Nat
  interrupted : Nat
  deriving DecidableEq, Repr

def IdWait.none : IdWait := ⟨Option.none, 0, 0, 0⟩

/-- Power, pins, supply guard (01, 02). -/
structure Power where
  applied : Bool
  mv : Nat
  minSeen : Nat             -- V48_MIN, 50 mV units
  amps : Nat
  standby : Bool
  step : Nat
  resetN : Bool
  pgood : Bool
  alertLow : Bool
  tripLow : Bool
  tripSawReset : Bool
  tripAt : Nat              -- local time of die 0 at the trip (R43)
  lowAt : Nat               -- and when RESET_N last fell
  hotStart : Bool           -- a power cycle has cleared a trip, and no die rail has risen since (R44)
  pwrReq : Bool
  scan : Bool
  guardHeld : Bool
  slotPins : Nat            -- the level of SLOT_ID
  slot : Nat                -- SLOT_ID as step 3 took it (R40)
  afterL5 : Bool
  hold : Bool
  throttle : Bool
  overV : Bool
  holds : Nat
  throttles : Nat
  resets : Nat
  logDropped : Nat
  cap : Nat
  logQ : List LogEntry
  mapQ : List MapEntry
  mapDue : Bool             -- SAMPLE_CURSOR waits for NOR (R510, R514)
  spareQ : List MapEntry    -- spare-ins that wait for space in `mapQ` (R510)
  idWait : IdWait
  fenced : List Nat
  fromStart : List Nat
  fenceDropped : Nat
  abrupt : Bool
  downAt : Option Nat       -- an interruption of R516 is running since this time
  logMinute : Nat × Nat
  deriving DecidableEq, Repr

end Sys2Proof.Machine
end

