-- ==== Sys2Proof/Machine/State.lean ====
section
/-! DEFINITION. The state of the block, its faults and refusals, and its state after reset: a module whose 48 V
input is not applied (log 2), every register at its At start value. -/

set_option autoImplicit false

namespace Sys2Proof.Machine

/-- The block: every piece of state of INVENTORY.md. A unit that a table does not list stands in its initial state. -/
structure State where
  model : Model
  power : Power
  i3c : I3c
  nor : Nor
  maps : List MapEntry      -- the coppice map as the cellars hold it
  cursors : SMap Nat
  dies : SMap Die
  cores : SMap Core         -- by 68 × die + physical core
  clusters : SMap Cluster   -- by 8 × die + cluster
  racks : SMap Rack         -- by 16 × die + engine
  parts : SMap Part         -- by 8 × die + first cluster (R293)
  ctxs : SMap Ctx           -- by context ID (R306)
  objs : SMap Obj           -- by object ID (R270)
  mem : Mem                 -- by physical address (R267)
  bad : SMap Bool           -- poison, by physical address / 64
  latent : SMap Flaw         -- lines whose stored bits hold an error that no read has found yet (R290)
  owed : List Owed          -- writes that wait for a granule, oldest first (R279)
  ports : SMap Port
  keys : SMap Key
  sess : SMap Session
  attempts : List Attempt
  reclaims : List Reclaim
  taken : List Taken
  nextUid : Nat
  nextSess : Nat
  tagDrops : Nat            -- SESSION.STATUS.TAG_DROPS (R388)
  lockUntil : Option Nat    -- password and claim sessions are refused until then (R381)
  fw : Fw
  trellis : Trellis
  dump : Dump
  due : List Due
  causes : List (Due × Nat × Nat) -- the records that called for a recovery: the die whose log holds each, and its SEQ (R471)
  out : List Out
  free : Nat                -- uses of free values so far: the model's own (log 9)
  pending : List Instr
  deriving DecidableEq, Repr

/-- Why a command stops the model. Raised by the wrappers of Machine/Ops.lean only. -/
inductive Fault
  /-- A command names a die, core, cluster, engine, channel or port that the fitted model does not carry (R5, R22):
  there is no such unit to act on. Safe: the hardware has no such command. -/
  | noSuchUnit
  deriving DecidableEq, Repr

/-- Why the model has no meaning for a command. -/
inductive Refusal
  /-- Raised by Dispatch for a command not modelled yet. Safe: nothing is claimed about it. -/
  | notModelled (mnemonic : String)
  deriving DecidableEq, Repr

/-- The map's empty copy. -/
def MapCopy.empty : MapCopy := ⟨true, 0, 0, [], List.replicate 8 0⟩

/-- The identity record as it leaves the factory (R379; log 7). -/
def IdRec.factory : IdRec := ⟨[], false, false, false, false, none, 0, none, 0, 4, 0, 0, 0, 0⟩

/-- NOR as it leaves the factory (R379; log 7). -/
def Nor.factory : Nor :=
  ⟨.factory, true, 0, ⟨true, .factory⟩, ⟨true, .factory⟩, .empty, .empty, []⟩

/-- Supply guard, pins and standby at reset: no input (log 2). -/
def Power.init : Power where
  applied := false
  mv := 0
  minSeen := 0xFFF
  amps := 0
  standby := false
  step := 0
  resetN := false
  pgood := false
  alertLow := false
  tripLow := false
  tripSawReset := false
  tripAt := 0
  lowAt := 0
  hotStart := false
  pwrReq := false
  scan := false
  guardHeld := false
  slotPins := 0
  slot := 0
  afterL5 := false
  hold := false
  throttle := false
  overV := false
  holds := 0
  throttles := 0
  resets := 0
  logDropped := 0
  cap := 80
  logQ := []
  mapQ := []
  mapDue := false
  spareQ := []
  idWait := .none
  fenced := []
  fromStart := []
  fenceDropped := 0
  abrupt := false
  downAt := none
  logMinute := (0, 0)

def I3c.init : I3c := ⟨none, none, false, 0, 0, 0, 0, false⟩

def Image.none : Image := ⟨0, 0, 0, [], []⟩

def Fw.init : Fw := ⟨0, false, false, false, 0, 0, .none, none, [], [], false, 0⟩

def Trellis.init : Trellis := ⟨0, 0, false, 0, [], [], [], none, none, none⟩

def Dump.init : Dump := ⟨0, 0, 4, [], [], 0, 0, [], 0⟩

/-- The machine at power-on. -/
def State.reset : State where
  model := .krk8
  power := .init
  i3c := .init
  nor := .factory
  maps := []
  cursors := []
  dies := []
  cores := []
  clusters := []
  racks := []
  parts := []
  ctxs := []
  objs := []
  mem := []
  bad := []
  latent := []
  owed := []
  ports := []
  keys := []
  sess := []
  attempts := []
  reclaims := []
  taken := []
  nextUid := 0
  nextSess := 1
  tagDrops := 0
  lockUntil := none
  fw := .init
  trellis := .init
  dump := .init
  due := []
  causes := []
  out := []
  free := 0
  pending := []

end Sys2Proof.Machine
end

