-- ==== Sys2Proof/Machine/Ops.lean ====
section
/-! DEFINITION. The named operations over State: tables of units, memory with poison (R290), translation (R264 to
R280), fault reports (R466), events and completions (R439 to R447), the event log (R72, R521), the coppice map (R510),
ALERT_STATUS (R42, R525). -/

set_option autoImplicit false

namespace Sys2Proof.Machine

/-- What a meaning answers. -/
abbrev Res := Host.Outcome State Fault Refusal

/-! ### Units -/

def ck (c : CoreId) : Nat := 68 * c.die + c.phys
def State.core (s : State) (k : Nat) : Core := get .init s.cores k
def State.setCore (s : State) (k : Nat) (c : Core) : State := { s with cores := put s.cores k c }
def State.die (s : State) (d : Nat) : Die := get .init s.dies d
def State.setDie (s : State) (d : Nat) (x : Die) : State := { s with dies := put s.dies d x }
def State.cluster (s : State) (d k : Nat) : Cluster := get .init s.clusters (8 * d + k)
def State.setCluster (s : State) (d k : Nat) (x : Cluster) : State := { s with clusters := put s.clusters (8 * d + k) x }
def State.rack (s : State) (d e : Nat) : Rack := get .init s.racks (16 * d + e)
def State.setRack (s : State) (d e : Nat) (x : Rack) : State := { s with racks := put s.racks (16 * d + e) x }
def State.part (s : State) (p : Nat) : Part := get .init s.parts p
def State.setPart (s : State) (p : Nat) (x : Part) : State := { s with parts := put s.parts p x }
def State.hasPart (s : State) (p : Nat) : Bool := (look s.parts p).isSome
def State.ctx (s : State) (c : Nat) : Ctx := get .init s.ctxs c
def State.setCtx (s : State) (c : Nat) (x : Ctx) : State := { s with ctxs := put s.ctxs c x }
def State.port (s : State) (p : Nat) : Port := get .init s.ports p
def State.setPort (s : State) (p : Nat) (x : Port) : State := { s with ports := put s.ports p x }
def State.emit (s : State) (o : Out) : State := { s with out := s.out ++ [o] }
def State.addDue (s : State) (r : Due) : State := if r ∈ s.due then s else { s with due := s.due ++ [r] }

/-- A recovery is taken or given up; the records that called for it are forgotten. -/
def State.delDue (s : State) (r : Due) : State :=
  { s with due := s.due.filter (fun x => x != r), causes := s.causes.filter (fun x => x.1 != r) }

/-- A free value (log 9): nothing is known of it. -/
def State.fresh (s : State) : Nat × State := (Config.free s.free, { s with free := s.free + 1 })

/-- Run a meaning on a unit that the fitted model carries (R5, R22). -/
def onDie (d : Nat) (s : State) (f : State → State) : Res :=
  if d < s.model.dies then .next (f s) else .fault .noSuchUnit
def onCore (c : CoreId) (s : State) (f : Nat → State → State) : Res :=
  if c.die < s.model.dies ∧ c.phys < 68 then .next (f (ck c) s) else .fault .noSuchUnit
def onPort (p : Nat) (s : State) (f : State → State) : Res :=
  if p < s.model.ports then .next (f s) else .fault .noSuchUnit
def onUnit (d k top : Nat) (s : State) (f : State → State) : Res :=
  if d < s.model.dies ∧ k < top then .next (f s) else .fault .noSuchUnit

/-- The die of a port (R24). -/
def portDie (p : Nat) : Nat := 2 * p

/-- Home cluster of a physical core (R501); a pair's spare serves either. -/
def homeCluster (phys : Nat) : Option Nat :=
  if phys % 17 = 16 then none else some (2 * (phys / 17) + phys % 17 / 8)

/-- The cluster a core serves: that of its logical core (R294). -/
def Core.cluster (c : Core) : Nat := c.part % 8 + c.lcore / 8
def Core.die (c : Core) : Nat := c.part / 8

/-- The cores of a partition, by logical core: key in State.cores. -/
def State.partCores (s : State) (p : Nat) : List Nat := (s.part p).phys.map (fun x => 68 * (p / 8) + x)

def State.fenced (s : State) (d : Nat) : Bool := s.power.fenced.contains d

/-- Change one core. -/
def State.onC (s : State) (k : Nat) (f : Core → Core) : State := s.setCore k (f (s.core k))
def State.regs (s : State) (k : Nat) (f : CoreRegs → CoreRegs) : State :=
  s.onC k (fun c => { c with hw := { c.hw with regs := f c.hw.regs } })

/-! ### Die-to-die links (R23, R468, R534) -/

/-- The die at the far end of a LINK (R23, R298), if the link lies in the grid. -/
def linkDie (dies d link : Nat) : Option Nat :=
  match link with
  | 0 => some (d + 1 - 2 * (d % 2))
  | 1 => if d < 2 then none else some (d - 2)
  | 2 => if d + 2 < dies then some (d + 2) else none
  | _ => none

def routeOf (rs : List (Nat × Nat × Nat × Nat)) (d k dest : Nat) : Option Nat :=
  (rs.find? (fun r => r.1 == d && r.2.1 == k && r.2.2.1 == dest)).map (fun r => r.2.2.2)

/-- Follow a route (R534): the dies it passes, ending at its destination; none when it does not get there. -/
def followRoute (rs : List (Nat × Nat × Nat × Nat)) (dies k dest : Nat) : Nat → Nat → Option (List Nat)
  | 0, _ => none
  | n + 1, d =>
    match (routeOf rs d k dest).bind (linkDie dies d) with
    | none => none
    | some e => if e = dest then some [e] else (followRoute rs dies k dest n e).map (e :: ·)

/-- The links of a route (R534): at each die the LINK that it takes. -/
def routeLinks (rs : List (Nat × Nat × Nat × Nat)) (dies k dest : Nat) : Nat → Nat → List (Nat × Nat)
  | 0, _ => []
  | n + 1, d =>
    match routeOf rs d k dest with
    | none => []
    | some l => match linkDie dies d l with
      | none => []
      | some e => (d, l) :: (if e = dest then [] else routeLinks rs dies k dest n e)

/-- The links between a context's die and another, on the routes of the cluster that the access comes from (R534). The access of
a port, a collective context or the firmware comes from the partition's first cluster (log 78). -/
def State.linksTo (s : State) (ctx kc dest : Nat) : List (Nat × Nat) :=
  if ctx / 1024 = dest ∨ ctx = 0xFFFF then [] else
  routeLinks s.trellis.routes s.model.dies kc dest s.model.dies (ctx / 1024)

/-- The first cluster of a context's partition. -/
def State.home (s : State) (ctx : Nat) : Nat := (s.ctx ctx).part % 8

/-- A link of a die in a direction: 0 out of the die, 1 into it (R468). -/
def linkDir (l dir : Nat) : Nat := 2 * l + dir

/-- The same link at its other end (R23). -/
def linkFar (l : Nat) : Nat := if l = 0 then 0 else 3 - l

/-- Flits of a link, counted at both its ends: out of die d or, `back`, into it. -/
def countLink (s : State) (back : Bool) (x : Nat × Nat) : State :=
  let one := fun (s : State) (d l dir : Nat) => s.setDie d { s.die d with links := upd 0 (s.die d).links (linkDir l dir) (· + 1) }
  match linkDie s.model.dies x.1 x.2 with
  | some e => one (one s x.1 x.2 (b2n back)) e (linkFar x.2) (b2n !back)
  | none => s

/-- Flits of an access cross the links to its die and back (R468): the request one way, the answer the other. -/
def countFlits (s : State) (ctx kc a : Nat) : State :=
  let ls := s.linksTo ctx kc (bits a 44 42)
  ls.foldl (fun (s : State) x => countLink s true x) (ls.foldl (fun (s : State) x => countLink s false x) s)

/-! ### Cellar roles (R425) -/

def cellarCore (s : State) (d n : Nat) : CellarCore := get .init (s.die d).cellar n

def setCellar (s : State) (d n : Nat) (c : CellarCore) : State :=
  s.setDie d { s.die d with cellar := put (s.die d).cellar n c }

/-- Whether a cellar core of a die runs a role (R425). -/
def roleUp (s : State) (d r : Nat) : Bool :=
  !s.fenced d && (List.range 5).any (fun n => (cellarCore s d n).st == 1 && (cellarCore s d n).role == r)

/-! ### ALERT_STATUS (R42, R524, R525) -/

def alNor : Nat := 7
def alTest : Nat := 6
def alPwr : Nat := 5
def alFence : Nat := 4
def alSpare : Nat := 3
def alTherm : Nat := 2
def alSupply : Nat := 1
def alBoot : Nat := 0

/-- Latch a bit of ALERT_STATUS, pull ALERT_N low, and send an in-band interrupt for a change that sets a bit. -/
def alert (s : State) (b : Nat) : State :=
  let a := s.i3c.alert ||| 2 ^ b
  let s1 := { s with i3c := { s.i3c with alert := a }, power := { s.power with alertLow := true } }
  if !bit s.i3c.alert b && s.i3c.dyn.isSome && s.i3c.ibi then s1.emit (.ibi (a % 256)) else s1

/-! ### Fault reports (R463, R466) -/

/-- A report of a fault (R463, R466): it waits in the die's queue of 256, or is dropped and counted. -/
def report (s : State) (f : Fault64) : State :=
  let x := s.die f.die
  if x.reports.length < 256 then s.setDie f.die { x with reports := x.reports ++ [{ f with time := x.time }] }
  else s.setDie f.die { x with repDropped := hold 16 x.repDropped 1 }

def Fault64.blank : Fault64 := ⟨0xFFFF, 0, 0, 0, 0, 0, 0, 0, 0, 0, 0, 0, 0, 0xFF, 0x80, 0, 0xFFFFFFFF⟩

/-! ### Recoveries called for, and the records of their causes (R463, R471, R487) -/

def flSample : Nat := 1
def flEscalated : Nat := 2
def flDump : Nat := 4
def flResumed : Nat := 8
def Fault64.flag (f : Fault64) (b : Nat) : Fault64 := { f with flags := f.flags ||| b }

/-- Change the record of a number in a die's log. -/
def flagRec (s : State) (d seq : Nat) (f : Fault64 → Fault64) : State :=
  s.setDie d { s.die d with log := (s.die d).log.map (fun y => if y.seq = seq then f y else y) }

/-- A record in a die's log calls for a recovery. -/
def State.addCause (s : State) (r : Due) (f : Fault64) : State := { s with causes := s.causes ++ [(r, f.die, f.seq)] }

/-- The records that called for a recovery, as the logs hold them, in the order written. -/
def State.causesOf (s : State) (r : Due) : List Fault64 :=
  (s.causes.filter (fun x => x.1 == r)).filterMap (fun x => (s.die x.2.1).log.reverse.find? (fun f => f.seq == x.2.2))

/-- Change the records of the causes of a recovery. -/
def flagCauses (s : State) (fs : List Fault64) (f : Fault64 → Fault64) : State :=
  fs.foldl (fun (s : State) x => flagRec s x.die x.seq f) s

/-- A recovery in progress is abandoned for a higher level: its records set ESCALATED (R487). -/
def escalate (s : State) (r : Due) : State := (flagCauses s (s.causesOf r) (·.flag flEscalated)).delDue r

/-- Call for an L3: it abandons the resets of its die in progress (R487). -/
def callL3 (s : State) (d : Nat) : State :=
  if s.fenced d then s else
  (s.due.filter (fun r => match r with | .l2 e _ => e == d | _ => false)).foldl escalate (s.addDue (.l3 d))

/-- Call for an L4 that the firmware decides, with a dump: it abandons every reset of a partition in progress (R487). -/
def callL4 (s : State) : State :=
  (s.due.filter (fun r => match r with | .l2 _ _ => true | _ => false)).foldl escalate (s.addDue (.l4 true))

/-! ### Sessions: bytes, tags, events, completions -/

def ascii (t : String) : Bytes := t.toList.map (fun c => BitVec.ofNat 8 c.toNat)

/-- The customisation strings of R380, R386 and R388, by number. -/
def cPassword : Nat := 0
def cClaim : Nat := 1
def cSession : Nat := 2
def cKey : Nat := 3
def cMacsec : Nat := 4
def cTag : Nat := 5

def keyOf (master : Bytes) (name : String) : Bytes := Config.kmac master (ascii name) 256 cKey

/-- A tag of 16 bytes under K_h2d (host to module) or K_d2h (R388, R440). -/
def tagH (x : Session) (m : Bytes) : Bytes := fit 16 (Config.kmac (keyOf x.master "H2D") m 128 cTag)
def tagD (x : Session) (m : Bytes) : Bytes := fit 16 (Config.kmac (keyOf x.master "D2H") m 128 cTag)

/-- The header block of a session (R438), written as one write. -/
def headerBytes (id : Nat) (x : Session) (im : Image) : Bytes :=
  natLe 4 id ++ natLe 1 (if x.closing then 2 else if x.expired then 1 else 0) ++ zeros 3 ++ natLe 8 im.release
    ++ natLe 2 im.major ++ natLe 2 im.schema ++ natLe 4 x.leaseMs ++ natLe 4 x.reclaimS ++ zeros 4
    ++ natLe 8 x.subCons ++ natLe 8 x.cplProd ++ natLe 8 x.evtProd ++ natLe 8 x.faultProd ++ natLe 8 x.evtDropped ++ zeros 56

/-- The ages of a ring's unread entries, of which `unread` remain and `new` were written at `now` (R447). -/
def ages (old : List Nat) (unread new now : Nat) : List Nat :=
  let l := old ++ List.replicate new now
  l.drop (l.length - unread)

/-- Whether a number of unread entries has risen to a threshold (R447). -/
def rises (thr old new : Nat) : Bool := decide (old < thr) && decide (thr ≤ new)

/-- Change a session and write its header block (R438); a threshold reached makes a nudge due on each of its rings (R447). -/
def State.setSess (s : State) (id : Nat) (x : Session) : State :=
  let now := (s.die s.fw.bootDie).time
  let y := (look s.sess id).getD x
  { s with sess := put s.sess id { x with
    space := Mem.setBytes x.space 0 (headerBytes id x s.fw.image)
    evtAt := ages x.evtAt (x.evtProd - x.evtCons) (x.evtProd - y.evtProd) now
    cplAt := ages x.cplAt (x.cplProd - x.cplCons) (x.cplProd - y.cplProd) now
    rose := if rises x.evtThr (y.evtProd - y.evtCons) (x.evtProd - x.evtCons) || rises x.cplThr (y.cplProd - y.cplCons) (x.cplProd - x.cplCons)
      then x.rings.map Prod.fst else x.rose } }

/-- An entry of a ring of the module's, with its tag (R439, R440). -/
def entryTag (x : Session) (body : Bytes) (ring idx : Nat) : Bytes :=
  body ++ tagD x (body ++ natLe 1 ring ++ natLe 8 idx)

/-- Write one event (R446); none of the ring's room is checked here. -/
def writeEvent (x : Session) (type die time : Nat) (data : Bytes) : Session :=
  let body := natLe 2 type ++ natLe 1 die ++ zeros 5 ++ natLe 8 time ++ fit 32 data
  { x with space := Mem.setBytes x.space (0x90000 + x.evtProd % 2 ^ x.evtLog * 64) (entryTag x body 2 x.evtProd),
           evtProd := x.evtProd + 1 }

def Session.evtRoom (x : Session) : Bool := decide (x.evtProd - x.evtCons < 2 ^ x.evtLog)

/-- An event for one session that has rings: dropped and counted on a full ring; an OVERFLOW event first when space has returned. -/
def eventTo (x : Session) (type die time : Nat) (data : Bytes) : Session :=
  if !x.opened then x else
  let x1 := if 0 < x.sinceOver && x.evtRoom then
      { writeEvent x 7 die time (natLe 8 x.sinceOver) with sinceOver := 0 } else x
  if x1.evtRoom then writeEvent x1 type die time data
  else { x1 with evtDropped := x1.evtDropped + 1, sinceOver := x1.sinceOver + 1 }

/-- Change every open session: each that has not expired (R390). -/
def State.onOpen (s : State) (f : Session → Session) : State :=
  (s.sess.map Prod.fst).foldl (fun (s : State) i => match look s.sess i with
    | some x => if x.expired then s else s.setSess i (f x)
    | none => s) s

/-- Post an event (R446): to the session that holds the context it names, else to every open session. -/
def postEvent (s : State) (ctx : Option Nat) (die type : Nat) (data : Bytes) : State :=
  let t := (s.die die).time
  match ctx with
  | some c =>
    let i := (s.ctx c).sess
    match look s.sess i with
    | some x => s.setSess i (eventTo x type die t data)
    | none => s
  | none => s.onOpen (fun x => eventTo x type die t data)

/-- CELLAR (R446). -/
def cellarEvent (s : State) (d core what : Nat) : State := postEvent s none d 5 (natLe 1 core ++ natLe 1 what)

/-- CTX_STATE (R446). -/
def ctxEvent (s : State) (c : Nat) (cause : Nat) : State :=
  postEvent s (some c) (c / 1024) 4 (natLe 2 c ++ natLe 1 (s.ctx c).st.code ++ natLe 1 cause)

/-- A context takes a state. -/
def setCtxSt (s : State) (c : Nat) (st : CtxSt) (cause : Nat) : State :=
  ctxEvent (s.setCtx c { s.ctx c with st := st }) c cause

/-- Status codes (R445). -/
def stOk : Nat := 0
def stLimit : Nat := 1
def stBusy : Nat := 2
def stState : Nat := 3
def stNotFound : Nat := 4
def stPolicy : Nat := 5
def stNoNear : Nat := 6
def stNoFar : Nat := 7
def stOverlap : Nat := 8
def stNotMapped : Nat := 9
def stNotPinned : Nat := 10
def stExists : Nat := 11
def stPort : Nat := 12
def stNoContext : Nat := 13
def stNoPartition : Nat := 14
def stEscalated : Nat := 15
def stTrellis : Nat := 16
def stBadToken : Nat := 17
def stIncompatible : Nat := 18
def stUpdateFailed : Nat := 19
def stUnknown : Nat := 20
def stBadArgs : Nat := 21
def stBadImage : Nat := 22
def stFull : Nat := 23
def stLastAdmin : Nat := 24

/-- Complete a request once (R442, R439): its entry goes to the completion slot reserved for it. -/
def complete (s : State) (uid status : Nat) (data : Bytes) : State :=
  match s.taken.find? (fun t => t.uid == uid) with
  | none => s
  | some t =>
    let s1 := { s with taken := s.taken.filter (fun t => t.uid != uid) }
    match look s1.sess t.sess with
    | none => s1
    | some x =>
      let body := natLe 4 t.reqId ++ natLe 2 status ++ natLe 2 t.code ++ fit 40 data
      s1.setSess t.sess { x with
        space := Mem.setBytes x.space (0x50000 + x.cplProd % 2 ^ x.cplLog * 64) (entryTag x body 1 x.cplProd)
        cplProd := x.cplProd + 1, cplHeld := x.cplHeld - 1 }

/-- Mark a request as under way. -/
def running (s : State) (uid : Nat) : State :=
  { s with taken := s.taken.map (fun t => if t.uid = uid then { t with running := true } else t) }

/-- The objects that a CTX_CREATE names (log 28): its save objects and those of its windows. -/
def ctxObjs (b : Bytes) : List Nat :=
  (List.range 8).map (fun j => field b (80 + 4 * j) 4)
    ++ (List.range ((b.length - 112) / 32)).map (fun i => field b (112 + 32 * i + 0x10) 4)

/-- The targets that order requests (R442): 1 object, 2 context, 3 partition, 4 port, 5 queue pair, 6 collective. -/
def targets (t : Taken) : List (Nat × Nat) :=
  let f := field t.fields
  match t.code with
  | 0x0102 | 0x0107 | 0x0108 => [(1, f 0 4)]
  | 0x0103 | 0x0105 | 0x0106 => [(2, f 0 2), (1, f 4 4)]
  | 0x0104 | 0x0203 | 0x0204 | 0x0205 | 0x0206 | 0x0207 | 0x0404 => [(2, f 0 2)]
  | 0x0201 => (3, f 0 1) :: (ctxObjs t.fields).map (fun o => (1, o))
  | 0x0202 => [(3, f 0 1), (2, f 2 2)]
  | 0x0301 => if f 6 1 = 1 then [(3, 8 * f 8 1 + f 9 1)] else []
  | 0x0401 => [(4, f 0 1)]
  | 0x0402 => [(2, f 0 2), (4, f 2 1), (5, 65536 * f 0 2 + f 4 2)]
  | 0x0403 => [(2, f 0 2), (5, 65536 * f 0 2 + f 2 2)]
  | 0x0601 => [(1, f 0 4)]
  | 0x0501 => [(2, f 0 2), (4, f 2 1), (6, 65536 * f 0 2 + f 4 2)]
  | 0x0502 | 0x0503 => [(2, f 0 2), (6, 65536 * f 0 2 + f 2 2)]
  | _ => []

/-- The die that holds a request's target, and the role that executes it there (R425, R426). -/
def unitOf (s : State) (t : Taken) : Nat × Nat :=
  let f := field t.fields
  match t.code with
  | 0x0101 => (f 0 1, 1)
  | 0x0102 | 0x0107 | 0x0108 => (f 0 4 / 2 ^ 17, 1)
  | 0x0103 | 0x0104 | 0x0105 | 0x0106 => (f 0 2 / 1024, 1)
  | 0x0201 | 0x0202 => (f 0 1 / 8, 0)
  | 0x0203 | 0x0204 | 0x0205 | 0x0206 | 0x0207 => (f 0 2 / 1024, 0)
  | 0x0301 => (if f 6 1 = 1 then f 8 1 else s.fw.bootDie, 0)
  | 0x0401 => (portDie (f 0 1), 3)
  | 0x0402 | 0x0501 => (portDie (f 2 1), 3)
  | 0x0403 | 0x0404 | 0x0502 | 0x0503 => (f 0 2 / 1024, 3)
  | _ => (s.fw.bootDie, 3)

/-- Whether the role core that executes a request can: a restart holds it up (R450), and so does a retirement with no spare until
the die is fenced (R452). -/
def unitRuns (s : State) (t : Taken) : Bool :=
  let (d, r) := unitOf s t
  decide (s.model.dies ≤ d) || s.fenced d || roleUp s d r

/-- The n-th request taken, when it carries the code, no earlier one that shares a target waits to begin (R442), and the core that
executes it runs (R426). -/
def reqAt (s : State) (n code : Nat) : Option Taken :=
  match s.taken[n]? with
  | none => none
  | some t =>
    if t.code = code ∧ !t.running ∧ unitRuns s t ∧ !((s.taken.take n).any (fun u => !u.running && (targets u).any (fun x => (targets t).contains x))) then some t else none

/-- A host request: the meaning runs on the request at its place; nothing happens where none stands there (log 12). -/
def onReq (s : State) (n code : Nat) (f : Taken → State → State) : Res :=
  match reqAt s n code with
  | some t => .next (f t s)
  | none => .next s

/-! ### Event log and coppice map (R72, R508 to R511, R520 to R522) -/

/-- Whether NOR writes may start (R25, R71): a boot die's cellar makes them, and the supply guard permits them. -/
def norFree (s : State) : Bool := s.nor.ok && s.fw.elected && !s.power.hold && !s.power.guardHeld

/-- Write the identity record, both copies with their check codes (R74, R508). -/
def Nor.commit (n : Nor) : Nor := { n with idA := ⟨true, n.toIdRec⟩, idB := ⟨true, n.toIdRec⟩ }

/-- Read the identity record at a start: the intact copy (R74). With none intact the record is the factory's (log 7). -/
def Nor.reread (n : Nor) : Nor :=
  { n with toIdRec := if n.idA.ok then n.idA.kept else if n.idB.ok then n.idB.kept else .factory }

/-- The identity record's counts as the module has them: what stands in NOR and what waits (R72, R381, R516). -/
def State.fails (s : State) : Nat × Nat := s.power.idWait.failures.getD (if s.nor.ok then (s.nor.failures, s.nor.claimFails) else (0, 0))
def State.failures (s : State) : Nat := s.fails.1 + s.fails.2
def State.starts (s : State) : Nat := s.nor.starts + s.power.idWait.starts
def State.service (s : State) : Nat := s.nor.service + s.power.idWait.service
def State.interrupted (s : State) : Nat := s.nor.interrupted + s.power.idWait.interrupted

/-- Write what waits of the identity record, when NOR may be written (R25, R72). -/
def drainId (s : State) : State :=
  if !norFree s then s else
  { s with
    nor := { s.nor with failures := s.fails.1, claimFails := s.fails.2, starts := s.starts, service := s.service, interrupted := s.interrupted }.commit
    power := { s.power with idWait := .none } }

/-- Change the identity record's counts: in RAM, and in NOR as soon as it may be written. -/
def noteId (s : State) (f : IdWait → IdWait) : State := drainId { s with power := { s.power with idWait := f s.power.idWait } }

/-- Time by which the module was interrupted, in µs (R516). -/
def addInterrupted (s : State) (us : Nat) : State := noteId s (fun w => { w with interrupted := w.interrupted + us })

/-- An entry's 128 bytes (R520): body filled up to 104 bytes, then CHECK over what precedes it. -/
def LogEntry.bytes (e : LogEntry) : Bytes :=
  let b := natLe 2 e.type ++ natLe 1 e.die ++ zeros 1 ++ natLe 4 e.start ++ natLe 8 e.time ++ fit 104 e.body
  b ++ fit 8 (Config.shake b 64)

/-- Write one entry to the log ring (R521): a full ring loses the oldest sector's 512 entries. -/
def norLog (s : State) (e : LogEntry) : State :=
  let l := if 65536 ≤ s.nor.log.length then s.nor.log.drop 512 else s.nor.log
  { s with nor := { s.nor with log := l ++ [e] } }

/-- The minute of the boot die's time, and whether another entry may be written in it (R521). -/
def logRoom (s : State) : Bool × Nat × Nat :=
  let m := (s.die s.fw.bootDie).time / 1500000000
  let n := if s.power.logMinute.1 = m then s.power.logMinute.2 else 0
  (decide (n < 256), m, n)

/-- Write the waiting entries in order, as far as R521 lets them: 256 in a minute. -/
def drainLog (s : State) : State :=
  s.power.logQ.foldl (fun s e =>
    let (room, m, n) := logRoom s
    if norFree s && room then
      norLog { s with power := { s.power with logQ := s.power.logQ.drop 1, logMinute := (m, n + 1) } } e
    else s) s

/-- Log an entry: to NOR behind those that wait, when writes may start, else into the RAM queue of 512 (R72, R521). -/
def logEntry (s0 : State) (type die : Nat) (body : Bytes) : State :=
  let s := drainLog s0
  let e : LogEntry := ⟨type, die, s.starts, (s.die die).time, body⟩
  let (room, m, n) := logRoom s
  if norFree s && s.power.logQ.isEmpty && room then
    norLog { s with power := { s.power with logMinute := (m, n + 1) } } e
  else if s.power.logQ.length < 512 then { s with power := { s.power with logQ := s.power.logQ ++ [e] } }
  else { s with power := { s.power with logDropped := hold 16 s.power.logDropped 1 } }

def MapEntry.bytes (e : MapEntry) : Bytes :=
  natLe 1 e.kind ++ natLe 1 e.die ++ natLe 1 e.st ++ natLe 1 e.source ++ natLe 2 e.unit ++ natLe 2 e.sub ++ natLe 8 e.whereAt

/-- The header of a copy of the map (R509): MAGIC, VERSION, ENTRIES, GENERATION, SAMPLE_CURSOR, START_COUNT and 28 reserved
bytes, which its CHECK covers with the entries. -/
def MapCopy.head (c : MapCopy) : Bytes :=
  natLe 4 0x5043504B ++ natLe 2 1 ++ natLe 2 c.entries.length ++ natLe 8 c.gen ++ (List.range 8).flatMap (fun d => natLe 1 (nth 0 c.cursors d))
    ++ natLe 4 c.start ++ zeros 28

/-- A copy of the map as the NOR holds it (R509); one whose CHECK fails holds another value there. -/
def MapCopy.bytes (c : MapCopy) : Bytes :=
  let es := c.entries.flatMap MapEntry.bytes
  c.head ++ fit 8 (Config.shake (c.head ++ es) 64) ++ es

/-- The places of the NOR flash (R508): offset and size of identity copies A and B, map copies A and B, event log, reserved. -/
def norLayout : List (Nat × Nat) :=
  [(0, 0x10000), (0x10000, 0x10000), (0x20000, 0x10000), (0x30000, 0x10000), (0x40000, 0x800000), (0x840000, 0x37C0000)]

/-- The same repair, whatever its state. -/
def MapEntry.same (a b : MapEntry) : Bool :=
  a.kind == b.kind && a.die == b.die && a.unit == b.unit && a.sub == b.sub && a.whereAt == b.whereAt

/-- The GENERATION of the newer copy. -/
def State.mapGen (s : State) : Nat := Nat.max s.nor.copyA.gen s.nor.copyB.gen

/-- The copy of the map that a start takes (R511): valid, and the newer. -/
def Nor.copy (n : Nor) : MapCopy :=
  if n.copyA.ok && (!n.copyB.ok || decide (n.copyB.gen ≤ n.copyA.gen)) then n.copyA
  else if n.copyB.ok then n.copyB else .empty

/-- Write the map to the copy with the lower GENERATION (R510). DESIGN CHOICE: entries of the NOR that the map in use does not have,
since its start could not read them (R44), stay in the NOR (log 52). -/
def norMap (s : State) : State :=
  let cur := (List.range 8).map (fun d => get 0 s.cursors d)
  let es := (s.maps ++ s.nor.copy.entries.filter (fun e => !s.maps.any (fun x => x.same e))).take 2048
  if s.nor.copyA.gen ≤ s.nor.copyB.gen then
    { s with nor := { s.nor with copyA := ⟨true, s.nor.copyB.gen + 1, s.starts, es, cur⟩ } }
  else { s with nor := { s.nor with copyB := ⟨true, s.nor.copyA.gen + 1, s.starts, es, cur⟩ } }

/-- Set an entry of the coppice map: in the cellars at once, in NOR when writes may start, else after Hold (R510);
a COPPICE event and a log entry follow (R520, R522). An entry brought in or marked FAILED alerts (R42). -/
def mapSet (s : State) (e : MapEntry) : State :=
  let l := if s.maps.any (fun x => x.same e) then s.maps.map (fun x => if x.same e then e else x) else s.maps ++ [e]
  let s1 := { s with maps := l.take 2048 }
  let s2 := if norFree s1 then norMap s1
    else if s1.power.mapQ.length < 256 then { s1 with power := { s1.power with mapQ := s1.power.mapQ ++ [e] } } else s1
  let s3 := postEvent s2 none s2.fw.bootDie 8 (e.bytes ++ natLe 8 s2.mapGen)
  let s4 := logEntry s3 2 e.die e.bytes
  if e.st = 0 then s4 else alert s4 alSpare

/-! ### Spares (R500 to R506) -/

/-- 24 h, in periods of 25 MHz. -/
def day : Nat := 2160000000000

/-- The pair of a physical core, and the pair's spare (R501). -/
def pairOf (phys : Nat) : Nat := phys / 17
def spareOf (pair : Nat) : Nat := 17 * pair + 16

/-- An entry that takes a pair's spare core: a core of the pair that it replaces, or the spare's own failure. -/
def MapEntry.takesSpare (e : MapEntry) (d pair : Nat) : Bool :=
  e.kind == 1 && e.die == d && pairOf e.unit == pair && (e.st == 1 || (e.st == 2 && e.unit == spareOf pair))

/-- Whether a pair's spare core is in use, or has failed. -/
def State.spareUsed (s : State) (d pair : Nat) : Bool := s.maps.any (fun e => e.takesSpare d pair)

/-- The physical core behind core i of cluster k (R294, R501, R503): its own, or the pair's spare; none when it has
failed with no spare. A PENDING core works on (R505). -/
def State.physOf (s : State) (d k i : Nat) : Nat :=
  let own := 17 * (k / 2) + 8 * (k % 2) + i
  if s.maps.any (fun e => e.kind == 1 && e.die == d && e.st == 1 && e.unit == own) then spareOf (k / 2) else own

/-- Working cores of a cluster: those not marked FAILED. -/
def State.clusterOk (s : State) (d k : Nat) : Bool :=
  (List.range 8).all (fun i => !s.maps.any (fun e =>
    e.kind == 1 && e.die == d && e.st == 2 && e.unit == 17 * (k / 2) + 8 * (k % 2) + i))

/-- Physical cores of a partition, by logical core (R294). -/
def State.choose (s : State) (d first n : Nat) : List Nat :=
  (List.range (8 * n)).map (fun l => s.physOf d (first + l / 8) (l % 8))

/-- The partition that holds a cluster, as its key. -/
def State.partAt (s : State) (d k : Nat) : Option Nat :=
  (s.parts.find? (fun p => decide (p.1 / 8 = d) && decide (p.1 % 8 ≤ k) && decide (k < p.1 % 8 + p.2.clusters))).map Prod.fst

/-- Schedule a spare-in (R503, R505, R506): a PENDING entry, unless the repair has an entry already; while the queue of R510 is full it
is not scheduled yet. A core outside every partition is replaced at once; a bank's copy begins. -/
def schedule (s : State) (e : MapEntry) : State :=
  if s.maps.any (fun x => x.same e) then s
  else if 256 ≤ s.power.mapQ.length then
    if s.power.spareQ.any (fun x => x.same e) then s else { s with power := { s.power with spareQ := s.power.spareQ ++ [e] } }
  else
  if e.kind = 1 then
    match (homeCluster e.unit).bind (fun k => s.partAt e.die k) with
    | some p => (mapSet s e).setPart p { s.part p with spareDue := some ((s.part p).spareDue.getD (s.die e.die).time) }
    | none => mapSet s { e with st := if s.spareUsed e.die (pairOf e.unit) ∨ (homeCluster e.unit).isNone then 0 else 1 }
  else if e.kind = 5 then
    let c := s.cluster e.die e.unit
    let used := (s.maps.filter (fun x => x.kind == 5 && x.die == e.die && x.unit == e.unit && x.st == 1)).length
    if used + c.copying.length < 2 then
      mapSet (s.setCluster e.die e.unit { c with copying := c.copying ++ [e.sub] }) e
    else mapSet s { e with st := 2 }
  else mapSet s e

/-- What waits of the map is written when NOR may be written, and the spare-ins that waited for space are scheduled (R510). -/
def drainMap (s : State) : State :=
  if !norFree s || (s.power.mapQ.isEmpty && !s.power.mapDue) then s else
  let t := norMap s
  s.power.spareQ.foldl schedule { t with power := { t.power with mapQ := [], mapDue := false, spareQ := [] } }

/-- Count an error of a unit in the 24 h window and schedule a spare-in at the threshold (R502). `who` is the unit that
is replaced; kind 12 is a delay monitor's tap 7 and kind 13 an uncorrectable error of a tile store, both of which call for a core. -/
def rateHit (s : State) (d kind unit sub whereAt limit who : Nat) : State :=
  let x := s.die d
  let keep := fun (ts : List Nat) => ts.filter (fun t => decide (x.time < t + day))
  let same := fun (r : RateCount) => r.kind == kind && r.unit == unit && r.sub == sub && r.whereAt == whereAt
  let old := ((x.rates.find? same).map RateCount.times).getD []
  let ts := keep old ++ [x.time]
  let s1 := s.setDie d { x with rates := x.rates.filter (fun r => !same r) ++ [⟨kind, unit, sub, whereAt, ts⟩] }
  if limit ≤ ts.length then schedule s1 ⟨if 12 ≤ kind then 1 else kind, d, 0, 1, who, sub, whereAt⟩ else s1

/-- A corrected error of a tile store (R93, R502). -/
def tstoreCe (s : State) (k : Nat) : State :=
  let d := k / 68
  let s1 := rateHit s d 1 (k % 68) 0 0 64 (k % 68)
  s1.setDie d { s1.die d with tsAt := (s1.die d).tsAt ++ [(s1.die d).time] }

/-- A corrected error of a memory channel (R290, R502). -/
def memCe (s : State) (a : Nat) : State :=
  let d := bits a 44 42
  let o := a % 2 ^ 42
  if o < 0x1000000000 then
    let k := bits o 35 33
    let s1 := rateHit (rateHit s d 5 k (Config.nearBank a) 0 1024 k) d 4 k (Config.nearBank a) (Config.nearRow a) 3 k
    s1.setDie d { s1.die d with nearAt := (s1.die d).nearAt ++ [(s1.die d).time] }
  else rateHit s d 8 (2 * bits (o - 0x10000000000) 37 35 + bits o 8 8) (Config.farDevice a) (Config.farRow a) 3
    (2 * bits (o - 0x10000000000) 37 35 + bits o 8 8)

/-! ### Memory (R267, R268, R288 to R290) -/

/-- What stands at a physical address: near or far memory of a die; its control window, whose registers REGISTER_READ and
REGISTER_WRITE reach; or nothing (R267). -/
inductive Tier
  | near (d k : Nat)
  | far (d ch : Nat)
  | control (d : Nat)
  | none
  deriving DecidableEq, Repr

def tierOf (a : Nat) : Tier :=
  let d := bits a 44 42
  let o := a % 2 ^ 42
  if o < 0x1000000000 then .near d (bits o 35 33)
  else if 0x10000000000 ≤ o ∧ o < 0x14000000000 then .far d (2 * bits (o - 0x10000000000) 37 35 + bits o 8 8)
  else if 0x30000000000 ≤ o ∧ o < 0x30004000000 then .control d
  else .none

/-- Whether an address lies in near or far memory. -/
def inDram (a : Nat) : Bool :=
  match tierOf a with
  | .near _ _ => true
  | .far _ _ => true
  | _ => false

/-- Count errors on the channel of an address. -/
def countErr (s : State) (a : Nat) (f : Errs → Errs) : State :=
  match tierOf a with
  | .near d k => s.setCluster d k { s.cluster d k with near := f (s.cluster d k).near }
  | .far d ch => s.setDie d { s.die d with far := upd ⟨0, 0, 0⟩ (s.die d).far ch f }
  | _ => s

/-- An access completed on the channel of an address (R468). The firmware logs an access to a reserved range (R267), as an
entry of type 6 with the address (log 52). -/
def countAcc (s : State) (a : Nat) : State :=
  match tierOf a with
  | .near d k => s.setCluster d k { s.cluster d k with accesses := (s.cluster d k).accesses + 1 }
  | .far d ch => s.setDie d { s.die d with farAcc := upd 0 (s.die d).farAcc ch (· + 1) }
  | .control _ => s
  | .none => logEntry s 6 (bits a 44 42) (natLe 8 a)

def State.badLine (s : State) (a : Nat) : Bool := get false s.bad (a / 64)
def State.setBad (s : State) (l : Nat) (b : Bool) : State :=
  { s with bad := if b then put s.bad l true else del s.bad l }

/-- A report that a unit of a core raises for its context, with the core's last STEP and KEEP numbers (R463). -/
def coreFault (s : State) (k : Nat) (cls unit engine whereAt a b : Nat) : Fault64 :=
  let c := s.core k
  { Fault64.blank with
    ctx := c.ctx.getD 0xFFFF, cls := cls, sev := 1, die := k / 68, unit := unit, index := k % 68,
    whereAt := whereAt, a := a, b := b, step := c.cx.cc.step, keep := c.cx.cc.keep, lcore := c.lcore, engine := engine }

/-- What a check finds on a line (R290): a correctable error is counted; an uncorrectable one poisons the line, which is
written back with its poison bit, and raises one ECC_UE naming the address and the context, unless the line is poisoned
already. -/
def flawLine (s : State) (ctx l : Nat) (f : Flaw) : State :=
  match f with
  | .ce => memCe (countErr s (l * 64) (fun e => { e with ce := hold 32 e.ce 1 })) (l * 64)
  | .ue =>
    if get false s.bad l then s else
    let s1 := (countErr s (l * 64) (fun e => { e with ue := hold 16 e.ue 1, poison := hold 16 e.poison 1 })).setBad l true
    match tierOf (l * 64) with
    | .near d k => report s1 { Fault64.blank with ctx := ctx, cls := 6, die := d, unit := 9, index := k, whereAt := l * 64, a := 0 }
    | .far d ch => report s1 { Fault64.blank with ctx := ctx, cls := 6, die := d, unit := 10, index := ch, whereAt := l * 64, a := 1 }
    | _ => s1

/-- Errors have come into stored lines (R288, R289): each stands there until a read finds it or a write covers its line (log 65). -/
def State.plant (s : State) (fl : Flaws) : State :=
  { s with latent := fl.foldl (fun (m : SMap Flaw) p => put m p.1 p.2) s.latent }

/-- The errors that a read of bytes a to a + n − 1 finds (R290): handled for the context, and the lines are written back. -/
def meet (s : State) (ctx a n : Nat) : State :=
  if s.fenced (bits a 44 42) then s else
  (s.latent.filter (fun p => decide (a < p.1 * 64 + 64) && decide (p.1 * 64 < a + n))).foldl (fun (s : State) p =>
    flawLine { s with latent := del s.latent p.1 } ctx p.1 p.2) s

/-- Read n bytes of one line or run: the bytes, and whether any line is poisoned. A reserved range reads zeros
(R267); a fenced die reads zeros with the poison bit (R484). -/
def rdPhys (s : State) (a n : Nat) : Bytes × Bool :=
  if s.fenced (bits a 44 42) then (zeros n, true)
  else if !inDram a then (zeros n, false)
  else (Mem.bytes s.mem a n, (linesOf a n).any (fun l => get false s.bad l))

/-- A line is written with its poison bit: counted (R292). -/
def markBad (s : State) (l : Nat) : State := countErr (s.setBad l true) (l * 64) (fun e => { e with poison := hold 16 e.poison 1 })

/-- Store poison bits for a write of n bytes at a (R290): a whole line written clean is clean, and an error of it is gone; a line
written in part, or with poison, keeps or takes the bit, and a line written with the bit is counted. -/
def wrPoison (s : State) (a n : Nat) (p : Bool) : State :=
  (linesOf a n).foldl (fun s l =>
    let whole := decide (a ≤ l * 64) && decide (l * 64 + 64 ≤ a + n)
    let s := if whole then { s with latent := del s.latent l } else s
    if p || (!whole && get false s.bad l) then markBad s l
    else if whole then s.setBad l false else s) s

/-- Write bytes at a physical address (R267, R290, R484). -/
def wrPhys (s : State) (a : Nat) (bs : Bytes) (p : Bool) : State :=
  if s.fenced (bits a 44 42) then
    { s with power := { s.power with fenceDropped := hold 32 s.power.fenceDropped 1 } }
  else if !inDram a then countAcc s a
  else countAcc (wrPoison { s with mem := Mem.setBytes s.mem a bs } a bs.length p) a

/-- The 64-bit atomic add of a memory channel: it adds to the value as stored, and the line keeps its poison bit
(R224, R290). Answers the earlier value. -/
def addPhys (s : State) (a v : Nat) : Nat × State :=
  let old := leNat (rdPhys s a 8).1
  (old, if s.fenced (bits a 44 42) then wrPhys s a [] false
    else if !inDram a then countAcc s a
    else
      let s1 := { s with mem := Mem.setBytes s.mem a (natLe 8 ((old + v) % 2 ^ 64)) }
      countAcc (if s.badLine a then markBad s1 (a / 64) else s1) a)

/-! ### Translation (R261 to R266, R279, R280) -/

/-- The kinds of access (R264). -/
inductive Acc
  | read | write | atomic
  deriving DecidableEq, Repr

/-- Where an access goes: a physical address; refused, with the KIND of MEM.XLATE.FAULT; it waits for the granule
(R279); or the object's die is fenced (R484). -/
inductive Loc
  | at_ (a : Nat) (obj g : Nat)
  | refused (k : Nat)
  | waits (obj g : Nat)
  | lost
  deriving DecidableEq, Repr

def Window.has (w : Window) (va : Nat) : Bool := decide (w.base ≤ va) && decide (va < w.base + w.granules * 65536)

/-- The n-th cluster of a mask, in ascending order, wrapping (R272). -/
def maskNth (m g : Nat) : Nat :=
  let l := (List.range 8).filter (fun k => bit m k)
  nth 0 l (g % l.length)

/-- Near and far frames as physical addresses (R278, R267). -/
def nearAddr (obj fr : Nat) : Nat := obj / 2 ^ 17 * 2 ^ 42 + fr * 65536
def farAddr (obj fr : Nat) : Nat := obj / 2 ^ 17 * 2 ^ 42 + 0x10000000000 + fr * 65536

/-- The place of a byte of an object, by the state of its granule (R279). -/
def objAt (s : State) (obj off : Nat) (k : Acc) : Loc :=
  if s.fenced (obj / 2 ^ 17) then .lost else
  match look s.objs obj with
  | none => .refused 1
  | some o =>
    let g := off / 65536
    match o.grans[g]? with
    | none => .refused 1
    | some e =>
      let far := Loc.at_ (farAddr obj e.far + off % 65536) obj g
      let near := Loc.at_ (nearAddr obj e.near + off % 65536) obj g
      match e.st, k with
      | .far, _ => far
      | .promoting, .read => far
      | .promoting, _ => .waits obj g
      | .near, _ => near
      | .demoting, .read => near
      | .demoting, _ => .waits obj g
      | .nearOnly, _ => near

/-- Translate one address (R264, R265, R279). `slot` says the access is a whole-slot or whole-segment transfer of a TE. -/
def locate (s : State) (ctx va : Nat) (k : Acc) (slot : Bool) : Loc :=
  match (s.ctx ctx).windows.find? (fun w => w.has va) with
  | none => .refused 1
  | some w =>
    if k = .read ∧ !w.rd then .refused 2
    else if k = .write ∧ !w.wr then .refused 3
    else if k = .atomic ∧ !(w.rd && w.wr && w.at_) then .refused 4
    else if !slot && !s.fenced (w.obj / 2 ^ 17) && (match look s.objs w.obj with | some o => o.policy == 3 | none => false) then .refused 5
    else objAt s w.obj (w.offset * 65536 + (va - w.base)) k

/-- The object and offset that an address maps to (R262). -/
def placeOf (s : State) (ctx va : Nat) : Nat × Nat :=
  match (s.ctx ctx).windows.find? (fun w => w.has va) with
  | some w => (w.obj, w.offset * 65536 + (va - w.base))
  | none => (0, 0)

/-- Translate a run of bytes line by line: the first refusal or wait, or every line can be reached. -/
def locateRun (s : State) (ctx va n : Nat) (k : Acc) (slot : Bool) : Option (Nat × Loc) :=
  ((linesOf va n).map (fun l => (Nat.max va (l * 64), locate s ctx (Nat.max va (l * 64)) k slot))).find? (fun p =>
    match p.2 with
    | .at_ _ _ _ => false
    | .lost => false
    | _ => true)

/-- The pieces of a run that lie in one line each. -/
def pieces (va n : Nat) : List (Nat × Nat) :=
  (linesOf va n).map (fun l =>
    let a := Nat.max va (l * 64)
    (a, Nat.min (va + n) (l * 64 + 64) - a))

/-- Pieces of a run with the bytes that fall to each. -/
def dealt : List (Nat × Nat) → Bytes → List (Nat × Bytes)
  | [], _ => []
  | (a, n) :: ps, bs => (a, bs.take n) :: dealt ps (bs.drop n)

/-- Bytes of an object, as the firmware reads them. -/
def objRead (s : State) (obj off n : Nat) : Bytes :=
  (pieces off n).flatMap (fun p => match objAt s obj p.1 .read with
    | .at_ a _ _ => (rdPhys s a p.2).1
    | _ => zeros p.2)

/-- The errors that a read of bytes of an object finds (R290), for a context or the firmware. -/
def meetObj (s : State) (ctx obj off n : Nat) : State :=
  if s.latent.isEmpty then s else
  (pieces off n).foldl (fun (s : State) p => match objAt s obj p.1 .read with
    | .at_ a _ _ => meet s ctx a p.2
    | _ => s) s

/-- Poisoned lines of a range of an object, counted from the first; a range of a fenced die is poisoned (R484). -/
def objBad (s : State) (obj off n : Nat) : List Nat :=
  ((pieces off n).filter (fun p => match objAt s obj p.1 .read with
    | .at_ a _ _ => (rdPhys s a p.2).2
    | .lost => true
    | _ => false)).map (fun p => p.1 / 64 - off / 64)

/-- Read one piece of a run behind the bytes and the poisoned lines read so far. -/
def rdPiece (kc ctx va : Nat) (slot : Bool) (a : Bytes × List Nat × State) (p : Nat × Nat) : Bytes × List Nat × State :=
  match locate a.2.2 ctx p.1 .read slot with
  | .at_ pa _ _ =>
    let s1 := countAcc (countFlits (meet a.2.2 ctx pa p.2) ctx kc pa) pa
    let (b, t) := rdPhys s1 pa p.2
    (a.1 ++ b, if t then a.2.1 ++ [p.1 / 64 - va / 64] else a.2.1, s1)
  | .lost => (a.1 ++ zeros p.2, a.2.1 ++ [p.1 / 64 - va / 64], a.2.2)
  | _ => (a.1 ++ zeros p.2, a.2.1, a.2.2)

/-- Read a run of a context's range from cluster kc, with the numbers of its poisoned lines counted from the run's first line.
Refused or waiting lines read as zeros (callers test locateRun first). -/
def rdVa (s : State) (kc ctx va n : Nat) (slot : Bool) : Bytes × List Nat × State :=
  (pieces va n).foldl (rdPiece kc ctx va slot) ([], [], s)

/-- Set the DIRTY bit of a sector written in a NEAR granule (R280). -/
def setDirty (s : State) (obj g off : Nat) : State :=
  match look s.objs obj with
  | none => s
  | some o => { s with objs := put s.objs obj { o with grans := modNth o.grans g (fun e =>
      if e.st = .near then { e with dirty := e.dirty ||| 2 ^ (off / 4096) } else e) } }

/-- A write meant for a fenced die is dropped and counted (R484). -/
def dropFenced (s : State) : State := { s with power := { s.power with fenceDropped := hold 32 s.power.fenceDropped 1 } }

/-- Make a write of one line where it was translated to (R224, R227, R280, R290). A write whose granule is on its way
waits in the translation unit (R279). A refused write is not made. -/
def putLoc (s : State) (l : Loc) (w : Owed) : State :=
  match l with
  | .at_ pa o g =>
    let s0 := countFlits s w.ctx w.from_ pa
    let s1 := if w.bytes.length < 64 then meet s0 w.ctx pa w.bytes.length else s0
    let s2 := match w.put with
      | .store => wrPhys s1 pa w.bytes w.bad
      | .add => (addPhys s1 pa (leNat w.bytes)).2
      | .raise => wrPhys s1 pa (natLe 8 (Nat.max (leNat (rdPhys s1 pa 8).1) (leNat w.bytes))) w.bad
    setDirty s2 o g (pa % 65536)
  | .waits o g => { s with owed := s.owed ++ [{ w with obj := o, off := g * 65536 + w.off % 65536 }] }
  | .lost => dropFenced s
  | .refused _ => s

/-- Write a run of a context's range from cluster kc; `bad` lists the poisoned lines counted from the run's first. -/
def wrVa (s : State) (kc ctx va : Nat) (bs : Bytes) (bad : List Nat) (slot : Bool) : State :=
  (dealt (pieces va bs.length) bs).foldl (fun s p =>
    putLoc s (locate s ctx p.1 .write slot) ⟨ctx, 0, p.1, .store, p.2, bad.contains (p.1 / 64 - va / 64), kc⟩) s

/-- An atomic add at an address of a context's range from cluster kc (R224). Answers the word as it stood. -/
def addVa (s : State) (kc ctx va v : Nat) : Nat × State :=
  let l := locate s ctx va .atomic false
  (match l with | .at_ pa _ _ => leNat (rdPhys s pa 8).1 | _ => 0,
   putLoc s l ⟨ctx, 0, va, .add, natLe 8 (v % 2 ^ 64), false, kc⟩)

/-- The writes that waited are made, in order, as far as their granules have moved (R279). -/
def payOwed (s : State) : State :=
  s.owed.foldl (fun (s : State) w =>
    putLoc s (objAt s w.obj w.off (if w.put = .add then .atomic else .write)) w) { s with owed := [] }

/-- The atomic adds of a context that wait for a granule are never made once it is aborted or torn down (R320, R476). -/
def dropAdds (s : State) (ctx : Nat) : State := { s with owed := s.owed.filter (fun w => w.ctx != ctx || w.put == .store) }

/-- Move a key to the front of a least-recently-used list of at most n; answers whether it was missing. -/
def lru (l : List (Nat × Nat)) (n : Nat) (k : Nat × Nat) : Bool × List (Nat × Nat) :=
  (!l.contains k, (k :: l.filter (· != k)).take n)

/-- The tag of a granule entry in a translation cache: context and object (R314). -/
def granTag (ctx obj : Nat) : Nat := ctx * 2 ^ 20 + obj

/-- The caches of a translation unit take an access (R263): whether a window or granule entry was missing. -/
def xlTouch (s : State) (d kc ctx va : Nat) : Bool × State :=
  match (s.ctx ctx).windows.find? (fun w => w.has va) with
  | none => (false, s)
  | some w =>
    let x := s.cluster d kc
    let (mw, wc) := lru x.winCache 64 (ctx, w.base)
    let (mg, gc) := lru x.granCache 4096 (granTag ctx w.obj, w.offset + (va - w.base) / 65536)
    (mw || mg, s.setCluster d kc { x with
      winCache := wc, granCache := gc, xlated := x.xlated + 1,
      winMiss := hold 32 x.winMiss (b2n mw), granMiss := hold 32 x.granMiss (b2n mg) })

/-- Whether the caches hold what an access needs. -/
def xlHit (s : State) (d kc ctx va : Nat) : Bool :=
  match (s.ctx ctx).windows.find? (fun w => w.has va) with
  | none => false
  | some w => (s.cluster d kc).winCache.contains (ctx, w.base)
      && (s.cluster d kc).granCache.contains (granTag ctx w.obj, w.offset + (va - w.base) / 65536)

/-- MEM.XLATE.FAULT of a cluster takes the first refusal (R265, R292). -/
def captureRefusal (s : State) (d kc kind engine lcore va : Nat) : State :=
  let x := s.cluster d kc
  if x.xfault.valid then s else s.setCluster d kc { x with xfault := ⟨true, kind, engine, lcore, va⟩ }

/-- A refusal (R265): captured in MEM.XLATE.FAULT, and a HANG at once that names context, core, engine and address, with the
translation unit's progress count (R465, R468). -/
def refuse (s : State) (k engine va kind : Nat) : State :=
  let c := s.core k
  report (captureRefusal s c.die c.cluster kind engine c.lcore va)
    { coreFault s k 4 6 engine va (16 + kind) (s.cluster c.die c.cluster).xlated with index := c.cluster }

/-- A refusal of an access that no engine of a core made: a barrier unit's, a collective context's, a switch-in's. -/
def refuseUnit (s : State) (d kc ctx lcore va kind : Nat) : State :=
  report (captureRefusal s d kc kind 0 (lcore % 64) va) { Fault64.blank with
    ctx := ctx, cls := 4, sev := 1, die := d, unit := 6, index := kc, whereAt := va, a := 16 + kind, b := (s.cluster d kc).xlated, lcore := lcore }

/-! ### Small helpers -/

/-- Power of a rail row (R26): its fault when out of tolerance (R465 class 10, reason 2). -/
def supplyFault (d reason whereAt mv sev : Nat) : Fault64 :=
  { Fault64.blank with
    cls := 10, sev := sev, die := d, unit := if reason = 2 then 15 else if reason = 1 then 8 else 16,
    index := if reason ≤ 2 then whereAt else 0, whereAt := whereAt, a := reason, b := mv }

/-- The lowest of the caps on a set point or fraction wins (R70). -/
def capTo (n cap : Nat) : Nat := Nat.min n cap

/-- The VE writes of every core land (R202). -/
def landWrites (s : State) : State :=
  if s.cores.any (fun c => !c.2.hw.writes.isEmpty) then
    { s with cores := mapAll s.cores (fun _ c => { c with hw := { c.hw with writes := [] } }) }
  else s

end Sys2Proof.Machine
end

