-- ==== Sys2Proof/Machine/Start.lean ====
section
/-! DEFINITION. Power-up, power-down and module reset (R31 to R33, R41, R74, R427 to R429, R485), and the
coppice map at a start (R507, R511). -/

set_option autoImplicit false

namespace Sys2Proof.Machine

def State.dieList (s : State) : List Nat := List.range s.model.dies

/-- NOR as the module sees it: factory defaults while it does not answer (R44). -/
def State.norView (s : State) : Nor := if s.nor.ok then s.nor else Nor.factory

def Tap.bypass (t : Tap) : Tap := { t with ir := .bypass, dr := [false], driven := false }

/-- Outside scan hold a TAP executes EXTEST and EXTEST_PULSE as BYPASS (R49). -/
def Tap.endScan (t : Tap) : Tap := if t.ir = .extest ∨ t.ir = .extestPulse then t.bypass else t

/-- A die at start, with what its cellar island keeps on the standby rails: local time, TAP, sensor readings. DESIGN CHOICE:
CELLAR.TIME counts on across a reset of the module, since the standby rails rose (R427), though R462 gives it 0 at start
(log 80). -/
def Die.restart (x : Die) : Die :=
  { Die.init with time := x.time, tap := x.tap.endScan, sensors := x.sensors, amps := x.amps, dramOn := x.dramOn }

/-- Bytes of the dies that a test selects. -/
def keepMem (m : Mem) (f : Nat → Bool) : Mem := m.filter (fun c => f (bits c.1 44 42))

/-- What a reset of the module ends (R33, R434, R485): every unit returns to At start, every cellar core to its ROM,
every session, context and object ends; a self-test that it ends counts as an abrupt loss (R515). DRAM keeps its bytes while its rails stay up (R27): `keep` says so. Service
time goes to the identity record (R516). -/
def moduleDown (s : State) (keep : Bool) : State :=
  let now := (s.die s.fw.bootDie).time
  let ran := if s.fw.inService then now - s.fw.serviceAt else 0
  let live := fun d => keep && !s.power.fenced.contains d && (s.die d).dramOn
  let s := noteId s (fun w => { w with service := w.service + ran })
  { s with
    power := { s.power with
      pgood := false, scan := false, minSeen := 0xFFF, holds := 0, throttles := 0, logDropped := 0, resets := 0,
      cap := 80, fenceDropped := 0, step := 4, spareQ := [], abrupt := s.power.abrupt || s.fw.stopping }
    dies := mapAll s.dies (fun d x => { x.restart with dramOn := live d })
    cores := [], clusters := [], racks := [], parts := [], ctxs := [], objs := [], ports := [], keys := []
    sess := [], attempts := [], reclaims := [], taken := [], tagDrops := 0, lockUntil := none
    nextUid := 0, nextSess := 1, owed := []
    mem := keepMem s.mem live, bad := s.bad.filter (fun c => live (bits (c.1 * 64) 44 42))
    latent := s.latent.filter (fun c => live (bits (c.1 * 64) 44 42))
    fw := .init, trellis := .init, due := [], causes := []
    dump := if live s.fw.bootDie then { s.dump with samples := if s.dump.st = 0 then [] else s.dump.samples, tables := [], taken := 0, skipped := 0 }
      else .init }

/-- Self-test capacity of a repair at start (R500, R507): the group whose spares it draws on and their number. -/
def MapEntry.group (e : MapEntry) : Nat × Nat × Nat × Nat :=
  match e.kind with
  | 1 => (1, e.die, pairOf e.unit, 0)
  | 4 => (4, e.die, e.unit, 0)
  | 5 => (5, e.die, e.unit, 0)
  | 6 => (6, e.die, e.unit, e.sub / 256)
  | 7 => (7, e.die, e.unit, 0)
  | 8 => (8, e.die, e.unit, Config.farGroup e.whereAt)
  | 9 => (9, e.die, 0, 0)
  | k => (k, e.die, e.unit, e.sub)

def MapEntry.spares (e : MapEntry) : Nat :=
  match e.kind with
  | 4 => Config.nearSpareRows
  | 5 => 2
  | 6 => 8
  | 7 => Config.linkSpareLanes
  | 10 => 0
  | 11 => 20
  | _ => 1

/-- Two faulty rows, or two faulty columns, of one array (R82). -/
def MapEntry.twin (a b : MapEntry) : Bool :=
  (a.kind == 2 || a.kind == 3) && a.kind == b.kind && a.die == b.die && a.unit == b.unit && a.sub == b.sub && a.whereAt != b.whereAt

/-- The cores with an array that has two faulty rows or columns and no entry of their own: an entry that calls for a spare
core (R82). A spare core among them has none and is FAILED. -/
def badArrays (es : List MapEntry) : List MapEntry :=
  let cores := (es.filter (fun e => es.any e.twin)).map (fun e => (⟨1, e.die, 0, e.source, e.unit, 0, 0⟩ : MapEntry))
  let one := cores.foldl (fun (a : List MapEntry) e => if (es ++ a).any e.same then a else a ++ [e]) []
  one.map (fun e => if e.unit % 17 = 16 then { e with st := 2 } else e)

/-- The map as applied at a start (R511): every APPLIED and PENDING entry that finds a spare is APPLIED, the others are
FAILED; a repair of far memory that Hold stops stays PENDING (R507). A core that R82 takes out of use gets an entry and the
pair's spare. -/
def applyMap (hold : Bool) (es : List MapEntry) : List MapEntry :=
  let bad := badArrays es
  (es ++ bad).foldl (fun (a : List MapEntry) e =>
    if e.st = 2 then a ++ [e]
    else if e.kind = 8 ∧ e.st = 0 ∧ hold then a ++ [e]
    else
      let used := if e.kind = 1 then ((a ++ es ++ bad).filter (fun x =>
            x.takesSpare e.die (pairOf e.unit) && (x.st == 2 || a.contains x))).eraseDups.length
        else (a.filter (fun x => x.group == e.group && x.st == 1)).length
      a ++ [{ e with st := if used < e.spares then 1 else 2 }]) []

/-- RESETS against the identity record (R79): the larger count is taken in both. -/
def syncResets (s : State) : State :=
  if !s.nor.ok then s else
  if s.power.resets < s.nor.resets then { s with power := { s.power with resets := s.nor.resets } }
  else if s.power.hold then s else { s with nor := { s.nor with resets := s.power.resets }.commit }

/-- A port starts trying its start rate (R353); before the first module-scope image it serves the host (log 32). -/
def portStart (s : State) (p : Nat) : State :=
  let x := s.port p
  s.setPort p { x with trying := true, rate := x.start, role := if s.trellis.applied then x.role else 1 }

/-- Dies that fail in step 6 (R32). -/
def failedDies (s : State) (rf : List (Nat × Nat)) : List Nat :=
  s.dieList.filter (fun d => rf.any (fun p => p.1 == d))

/-- Step 6 (R31, R32): rails up, VCORE at 0.65 V; a die with a failing rail is off, counts as fenced from start, and a
SUPPLY event is logged. DESIGN CHOICE: the entry's body is the row of R26 in 8 bytes (log 52). -/
def raiseRails (s : State) (rf : List (Nat × Nat)) : State :=
  let bad := failedDies s rf
  let s1 := s.dieList.foldl (fun s d =>
    s.setDie d { s.die d with
      railsOn := !bad.contains d, dramOn := !bad.contains d, railBad := false, railsAt := (s.die d).time
      set := 10, actual := 10, busy := false }) s
  let lost := fun d => bad.contains d
  let s2 := { s1 with
    power := { s1.power with fenced := bad, fromStart := bad, hotStart := false }
    mem := keepMem s1.mem (fun d => !lost d), bad := s1.bad.filter (fun c => !lost (bits (c.1 * 64) 44 42))
    latent := s1.latent.filter (fun c => !lost (bits (c.1 * 64) 44 42))
    dump := if lost s1.dump.die then .init else s1.dump }
  rf.foldl (fun s p =>
    if p.1 < s.model.dies then
      alert (alert (logEntry (report s
        { Fault64.blank with cls := 10, sev := 4, die := p.1, unit := 15, index := p.2, whereAt := p.2, a := 2 }) 4 p.1
        (natLe 8 p.2)) alSupply) alBoot
    else s) s2

/-- How long password and claim sessions stay locked after so many failed proofs (R381). -/
def lockTicks (n : Nat) : Nat := if n < 5 then 0 else Nat.min 3600 (60 * 2 ^ Nat.min 16 (n - 5)) * 25000000

/-- Election (R428): even dies that are not fenced, with a good cellar core, a port that the map does not mark failed, as far
as the die can read it, and its SerDes working on its reference. -/
def candidates (s : State) (env : StartEnv) : List Nat :=
  s.dieList.filter (fun d => d % 2 == 0 && !s.power.fenced.contains d && env.cellarOk.contains d && env.serdesOk.contains d
    && decide (d / 2 < s.model.ports) && !env.noRef.contains (d / 2)
    && !(env.reads d && s.nor.copy.entries.any (fun e => e.kind == 10 && e.die == d && e.st == 2)))

/-- Ports whose reference is absent stay down, each with a LINK event (R46). DESIGN CHOICE: its reason is 1, a rate cycle
without lock, which a port without reference cannot get (log 80). -/
def darkPorts (s : State) (env : StartEnv) : State :=
  (List.range s.model.ports).foldl (fun (s : State) p =>
    if !env.noRef.contains p || s.power.fenced.contains (portDie p) then s else
    report (s.setPort p { s.port p with noRef := true })
      { Fault64.blank with cls := 7, die := portDie p, unit := 12, index := p, a := 1 }) s

/-- The entry of a lane that training brings in or finds without spare (R500, R509). DESIGN CHOICE: its SOURCE is 3, a hard
failure (log 80). -/
def laneEntry (l : Lane) : MapEntry := ⟨if l.bond then 6 else 7, l.die, 0, 3, l.unit, l.lane, 0⟩

/-- The entries that a start has to apply: those of the copy, and the lanes that training finds bad. -/
def trained (ls : List Lane) (es : List MapEntry) : List MapEntry :=
  ls.foldl (fun (a : List MapEntry) l => if a.any (laneEntry l).same then a else a ++ [laneEntry l]) es

/-- Entries of the map that a start or a retraining has changed: an alert and a log entry for each (R42, R520). -/
def noteSpares (s : State) (old : List MapEntry) : State :=
  let new := s.maps.filter (fun e => !old.contains e)
  new.foldl (fun (s : State) e => logEntry (if e.st = 0 then s else alert s alSpare) 2 e.die e.bytes) s

/-- The boot die's ROM applies the coppice map (R428, R507, R511), which is empty where it cannot read the NOR (R44). -/
def applyAtStart (s : State) (env : StartEnv) (reads : Bool) : State :=
  let old := if reads then s.nor.copy.entries else []
  let cur := if reads then s.nor.copy.cursors else []
  let es := applyMap s.power.hold (trained env.lanes old)
  let s1 := { s with
    maps := es, cursors := (List.range cur.length).zip cur
    fw := { s.fw with startMap := fit 64 (Config.shake (es.flatMap MapEntry.bytes) 512) } }
  noteSpares (if norFree s1 && es != old then norMap s1 else s1) old

/-- Step 8 (R31, R44, R46, R79, R428, R507, R511): only an elected boot die writes to the NOR. DESIGN CHOICE: an unreachable
NOR is logged as a SUPPLY entry with an empty body (log 52). -/
def startStep8 (s0 : State) (env : StartEnv) : State :=
  let s := darkPorts s0 env
  let cs := candidates s env
  match cs with
  | [] =>
    let s1 := { s with power := { s.power with step := 8 } }
    alert (if env.norOk then s1 else alert s1 alNor) alBoot
  | b :: _ =>
    let reads := env.reads b
    let s1 := { s with
      power := { s.power with step := 8, afterL5 := false }
      fw := { s.fw with bootDie := b, elected := true, candidates := (cs.map (2 ^ ·)).sum }
      nor := if reads then { s.nor.reread with ok := true } else { s.nor with ok := false, lastTry := (s.die b).time } }
    let s2 := (fun t => if reads then t else alert t alNor) (noteId s1 (fun w => { w with starts := w.starts + 1 }))
    let s3 := applyAtStart s2 env reads
    let s4 := { if reads then s3 else logEntry s3 4 b [] with
      lockUntil := if reads && 5 ≤ s3.failures then some ((s3.die b).time + lockTicks s3.failures) else none }
    let gib := s4.norView.dumpGib
    let s5 := if s4.dump.size = gib ∧ s4.dump.die = b then s4 else { s4 with dump := { Dump.init with size := gib, die := b } }
    portStart (drainLog (syncResets s5)) (b / 2)

/-- Whether a die can become the boot die at all (R32). -/
def canBoot (s : State) : Bool := s.dieList.any (fun d => d % 2 == 0 && !s.power.fenced.contains d)

/-- What of each die works beside its rails (R498). -/
def unitsOf (s : State) (env : StartEnv) : State :=
  s.dieList.foldl (fun (s : State) d => s.setDie d { s.die d with noFar := env.noFar.contains d, lame := env.lame.contains d }) s

/-- Steps 5 to 8 of power-up (R31, R32): without a die that could become the boot die PGOOD stays low. -/
def powerUp (s : State) (env : StartEnv) : State :=
  let s1 := unitsOf (raiseRails s env.railFail) env
  if canBoot s1 then startStep8 { s1 with power := { s1.power with pgood := true, step := 7 } } env
  else alert { s1 with power := { s1.power with step := 6 } } alBoot

/-- A junction sensor's number of 0.25 °C units, and what the map marks failed (R517, R518). -/
def sensorOk (s : State) (d n : Nat) : Bool := !s.maps.any (fun e => e.kind == 11 && e.die == d && e.unit == n)

/-- A power cycle has cleared a trip, and a die sensor still reads above 95 °C: no die rail rises (R44). -/
def tooHot (s : State) : Bool :=
  s.power.hotStart && s.dieList.any (fun d => (List.range 8).any (fun n => sensorOk s d n && decide (95 * 4 < get 0 (s.die d).sensors n)))

/-- Whether the module may leave reset: standby up, no supply Reset, no power-cycle request, no thermal trip, no die
sensor hot after a power cycle (R33, R43, R44). -/
def mayStart (s : State) (env : StartEnv) : Bool :=
  s.power.standby && !s.power.guardHeld && !s.power.pwrReq && !s.power.tripLow && !env.hot && !tooHot s

/-- Die rails off in the order of R33; DRAM rails too unless they stay (R27). -/
def railsOff (s : State) (keepDram : Bool) : State :=
  { s with dies := mapAll s.dies (fun _ x => { x with railsOn := false, dramOn := x.dramOn && keepDram }) }

/-- Power-down (R33): PGOOD low, the rails off and every unit in reset. -/
def powerDown (s : State) (keepDram : Bool) : State := moduleDown (railsOff s keepDram) keepDram

/-- The standby rails rise (R31 steps 1 to 3, R26, R40, R427): boot ROMs run, local times start at 0, the I3C target
takes its static address from SLOT_ID as it stands now. -/
def standbyUp (s : State) : State :=
  { s with
    power := { s.power with standby := true, step := 4, slot := s.power.slotPins, minSeen := Nat.min 0xFFF (s.power.mv / 50) }
    i3c := { I3c.init with static := some (0x58 + s.power.slotPins) }
    dies := s.dieList.map (fun d => (d, Die.init)) }

/-- The standby rails fall with the input below 38 V (R26, R44, R74): every rail is off, the guard's counts stay. -/
def standbyDown (s : State) : State :=
  let c := (s.power.holds, s.power.throttles, s.power.logDropped, s.power.resets)
  let s1 := powerDown { s with power := { s.power with guardHeld := true } } false
  { s1 with
    power := { s1.power with
      standby := false, step := 1, guardHeld := true, pwrReq := false, tripLow := false, tripSawReset := false,
      afterL5 := s.power.pwrReq, alertLow := false, hold := false, throttle := false, overV := false, logQ := [], mapQ := [], mapDue := false, idWait := .none, fenced := [], fromStart := [],
      holds := c.1, throttles := c.2.1, logDropped := c.2.2.1, resets := c.2.2.2
      lowAt := 0, hotStart := s.power.hotStart || s.power.tripLow
      abrupt := s.power.abrupt || decide (7 ≤ s.power.step) }
    i3c := .init, dies := [], dump := .init, maps := [], cursors := [] }

/-- Any working junction sensor of a die at or above a temperature in °C. -/
def anyAt (s : State) (d : Nat) (t : Int) : Bool :=
  (List.range 8).any (fun n => sensorOk s d n && decide (t * 4 ≤ get 0 (s.die d).sensors n))

/-- Every working junction sensor below a temperature. -/
def allBelow (s : State) (d : Nat) (t : Int) : Bool := !anyAt s d t

/-- The highest set point a die may take: VCORE_MAX, and 0.65 V with fewer than 4 junction sensors left (R300, R518). -/
def vcoreTop (s : State) (d : Nat) : Nat :=
  let x := s.die d
  let left := ((List.range 8).filter (sensorOk s d)).length
  Nat.min (Nat.min 50 x.vmax) (if left < 4 then 10 else 50)

/-- The firmware sets VCORE (R54, R77, R300): the lowest cap wins; the regulator slews. -/
def setVcore (s : State) (d code : Nat) : State :=
  let x := s.die d
  let c0 := Nat.max (Nat.min code 50) x.vmin
  let c1 := Nat.min c0 (vcoreTop s d)
  let c2 := if 0 < x.thrV then Nat.min c1 x.set else c1
  s.setDie d { x with set := c2, busy := decide (c2 ≠ x.actual) }

end Sys2Proof.Machine
end

