-- ==== Sys2Proof/Machine/Rings.lean ====
section
/-! DEFINITION. What the engines of a core share: queues and retirement (R182 to R184), stops (R174), descriptors
(R193 to R197), stream rings and slots (R233 to R244, R249), the tile store (R92, R93), the ring table (R239, R240,
R530). -/

set_option autoImplicit false

namespace Sys2Proof.Machine

/-! ### Engines and queues -/

/-- An engine's number (R172). -/
def eNum : Engine → Nat
  | .cc => 0 | .ope => 1 | .ve => 2 | .te => 3

def Core.eng (c : Core) : Engine → Eng
  | .ope => c.cx.ope
  | .ve => c.cx.ve
  | .te => c.cx.te
  | .cc => .empty

def Core.setEng (c : Core) (e : Engine) (x : Eng) : Core :=
  match e with
  | .ope => { c with cx := { c.cx with ope := x } }
  | .ve => { c with cx := { c.cx with ve := x } }
  | .te => { c with cx := { c.cx with te := x } }
  | .cc => c

def State.onEng (s : State) (k : Nat) (e : Engine) (f : Eng → Eng) : State :=
  s.onC k (fun c => c.setEng e (f (c.eng e)))

def State.onCC (s : State) (k : Nat) (f : CC → CC) : State :=
  s.onC k (fun c => { c with cx := { c.cx with cc := f c.cx.cc } })

def State.onHw (s : State) (k : Nat) (f : CoreHw → CoreHw) : State := s.onC k (fun c => { c with hw := f c.hw })
def State.onCx (s : State) (k : Nat) (f : CoreCtx → CoreCtx) : State := s.onC k (fun c => { c with cx := f c.cx })

/-- Progress of a unit of the core (R468): 0 CC, 1 OPE, 2 VE, 3 TE. -/
def State.progress (s : State) (k n : Nat) : State :=
  s.onHw k (fun h => { h with progress := modNth h.progress n (· + 1) })

/-- The delay monitor has halted every handshake of a core's cluster (R56). -/
def State.haltedAt (s : State) (k : Nat) : Bool := (s.cluster (s.core k).die (s.core k).cluster).halted

/-- A switch of the partition has begun (R316, R504): its resident context begins nothing more. -/
def Part.leaving (p : Part) : Bool := p.forced || (match p.sw with | some w => w.begun | none => false)

/-- The context resident on a core, while its cluster is not halted (R56), its partition is in service (R295), no switch has
begun (R316 step 2) and it is not in teardown (R319). -/
def State.liveOn (s : State) (k : Nat) : Option Nat :=
  let c := s.core k
  match c.ctx with
  | none => none
  | some x =>
    let p := s.part c.part
    if s.haltedAt k || p.st != .inService || p.leaving || (s.ctx x).st != .resident then none else some x

/-- FENCE, WAIT, WAITMEM and BARRIER hold back later commands until they complete (R212, R216, R226). -/
def blocks (w : CmdWord) : Bool :=
  let o := opcode w
  o == 0x11 || o == 0x12 || o == 0x13 || o == 0x15

/-- The commands whose writes a FENCE covers (R212). -/
def writes (w : CmdWord) : Bool :=
  let o := opcode w
  o == 0x43 || (0x81 ≤ o && o ≤ 0x8D) || (0xC1 ≤ o && o ≤ 0xC8)

/-- The next command that an engine may begin: the first waiting entry, behind no blocking command, in a queue that is
neither held nor stopped. The OPE and the VE take their commands one after another (R184): see each engine's file. -/
def Eng.next (x : Eng) : Option QEntry :=
  if x.held || x.stopped then none
  else if x.q.any (fun n => n.st == .begun && blocks n.word) then none
  else x.q.find? (fun n => n.st == .waiting)

/-- Whether an engine's order lets its next command begin (R99, R184): the OPE not halted, its run issued, its blocking
load landed; the VE's last command issued; fewer than 8 commands begun in the TE. -/
def Core.mayBegin (c : Core) (e : Engine) : Bool :=
  match e with
  | .ope => !c.cx.halted && c.cx.run.isNone && !c.cx.arrs.any (fun a => a.b0.back || a.b1.back) && !c.cx.ope.q.any (fun n => n.st == .begun && opcode n.word == 0x40 && bit n.word.toNat 86)
  | .ve => c.cx.veCmd.isNone
  | .te => decide ((c.cx.te.q.filter (fun n => n.st == .begun)).length < 8)
  | .cc => false

/-- The next command of a live core's engine, when it has the opcode. A core stopped at a command boundary begins no
more (R458). -/
def State.head (s : State) (k : Nat) (e : Engine) (op : Nat) : Option (Nat × QEntry) :=
  match s.liveOn k, !(s.core k).cx.cc.boundary && (s.core k).mayBegin e with
  | some ctx, true =>
    match ((s.core k).eng e).next with
    | some n => if opcode n.word = op then some (ctx, n) else none
    | none => none
  | _, _ => none

/-- Mark an entry of a queue. -/
def Eng.mark (x : Eng) (seq : Nat) (st : QSt) : Eng :=
  { x with q := x.q.map (fun n => if n.seq = seq then { n with st := st } else n) }

/-- Completed commands leave at the front, in queue order (R183). -/
def retire (s : State) (k : Nat) (e : Engine) : State :=
  let x := (s.core k).eng e
  let n := (x.q.takeWhile (fun n => n.st == .done)).length
  (s.onEng k e (fun x => { x with q := x.q.drop n })).onHw k (fun h =>
    { h with retired := modNth h.retired (eNum e) (· + n), progress := modNth h.progress (eNum e) (· + n) })

/-- Begin a command: a writing command leaves the queue uncovered (R213). DESIGN CHOICE: a writing command counts from its
begin and no longer than the FENCE behind it has completed; the spec does not say whether one that waits in its queue counts,
nor whether a FENCE that waits ends it already (log 80). -/
def begin_ (s : State) (k : Nat) (e : Engine) (n : QEntry) : State :=
  s.onEng k e (fun x => { x.mark n.seq .begun with uncovered := x.uncovered || writes n.word })

/-- Complete a command and retire what can retire. -/
def finish (s : State) (k : Nat) (e : Engine) (seq : Nat) : State :=
  retire (s.onEng k e (fun x => x.mark seq .done)) k e

/-! ### Stops and faults of a core -/

/-- R174: capture the stop, raise HANG at once; the engine's queue, or the CC, stops. -/
def stopUnit (s : State) (k : Nat) (e : Engine) (cause idx : Nat) (w : CmdWord) : State :=
  let c := s.core k
  let s1 := if c.hw.regs.stop.valid then s else s.regs k (fun r => { r with stop := ⟨true, cause, eNum e, idx, w⟩ })
  let s2 := match e with
    | .cc => s1.onCC k (fun x => { x with stopped := true })
    | _ => s1.onEng k e (fun x => { x with stopped := true })
  report s2 (coreFault s k 4 (1 + eNum e) (eNum e) idx cause (nth 0 c.hw.progress (eNum e)))

/-- Stop a unit without a capture. -/
def haltUnit (s : State) (k : Nat) (e : Engine) : State :=
  match e with
  | .cc => s.onCC k (fun x => { x with stopped := true })
  | _ => s.onEng k e (fun x => { x with stopped := true })

/-- R171, R197, R210, R222: poison met at an address that controls a unit: POISON, and the unit stops. -/
def poisonStop (s : State) (k : Nat) (e : Engine) (va a idx : Nat) : State :=
  report (haltUnit s k e) (coreFault s k 5 (1 + eNum e) (eNum e) va a idx)

/-- R265: a refused access: HANG by the translation unit; the unit that made it stops. -/
def refuseStop (s : State) (k : Nat) (e : Engine) (va kind : Nat) : State := refuse (haltUnit s k e) k (eNum e) va kind

/-! ### Control accesses of a core -/

/-- What a control read gives. -/
inductive Rd
  | ok (bs : Bytes) (s : State)
  | stopped (s : State)
  | later
  deriving DecidableEq, Repr

/-- Read control bytes of the context: a refusal, or poison in any line, stops the unit. -/
def ctlRead (s : State) (k : Nat) (e : Engine) (va n a idx : Nat) : Rd :=
  let ctx := (s.core k).ctx.getD 0
  match locateRun s ctx va n .read false with
  | some (v, .refused kind) => .stopped (refuseStop s k e v kind)
  | some _ => .later
  | none =>
    let (bs, bad, s1) := rdVa s (s.core k).cluster ctx va n false
    match bad with
    | [] => .ok bs (xlTouch s1 (s.core k).die (s.core k).cluster ctx va).2
    | l :: _ => .stopped (poisonStop s1 k e ((va / 64 + l) * 64) a idx)

/-- Write control bytes of the context: a refusal stops the unit; a granule on its way holds the write (R279). -/
def ctlWrite (s : State) (k : Nat) (e : Engine) (va : Nat) (bs : Bytes) : State :=
  let ctx := (s.core k).ctx.getD 0
  match locateRun s ctx va bs.length .write false with
  | some (v, .refused kind) => refuseStop s k e v kind
  | _ => wrVa (xlTouch s (s.core k).die (s.core k).cluster ctx va).2 (s.core k).cluster ctx va bs [] false

/-! ### Descriptors -/

/-- A descriptor from its 64 bytes (R194). -/
def parseDesc (b : Bytes) : Desc :=
  let fl := field b 0x25 1
  let rg := field b 0x2A 1
  let ix := field b 0x2C 2
  { base := field b 0 8, dim0 := field b 8 4, dim1 := field b 0xC 4, dim2 := field b 0x10 4, dim3 := field b 0x14 4,
    stride1 := field b 0x18 4, stride2 := field b 0x1C 4, stride3 := field b 0x20 4, fmt := field b 0x24 1,
    valid := bit fl 7,
    kind := match bits fl 6 5 with | 0 => .tensor | 1 => .index | 2 => .word | _ => .remote
    axis := bit fl 4, orderRows := bit fl 3, unitRec := bit fl 2, tailCap := field b 0x26 2, promoCap := field b 0x28 2,
    ring := if bit rg 7 then some (rg % 32) else none
    tagBase := field b 0x2B 1, index := if bit ix 15 then some (ix % 4096) else none
    layerStride := field b 0x30 8, remote := field b 0x38 8 }

/-- Whether a command may use the entry at all (R194, R174 cause 3). DESIGN CHOICE: a tensor with DIM0 or DIM1 of 0 is cause 3
too; the spec gives "at least 1" for DIM2 and DIM3 only (log 80). -/
def Desc.ok (d : Desc) : Bool :=
  d.valid && decide (d.base < 2 ^ 52) && (d.kind != .word || d.base % 8 == 0)
    && (match d.kind with
      | .tensor => decide (d.fmt ≤ 0x0D) && capsOk d.fmt d.tailCap d.promoCap && decide (0 < d.dim0) && decide (0 < d.dim1)
          && decide (0 < d.dim2) && decide (0 < d.dim3)
      | .remote => decide (d.fmt ≤ 0x0D) && capsOk d.fmt d.tailCap d.promoCap
      | .index => decide (d.dim0 ≤ 2 ^ 20)
      | .word => true)

/-- What reading a descriptor gives. -/
inductive DRd
  | ok (d : Desc) (s : State)
  | stopped (s : State)
  | later
  deriving DecidableEq, Repr

/-- Read a descriptor for a command, through the core's cache (R196, R197); a bad entry is cause 3. -/
def readDesc (s : State) (k : Nat) (e : Engine) (h : Nat) (kind : DKind) (n : QEntry) : DRd :=
  let c := s.core k
  let x := s.ctx (c.ctx.getD 0)
  let bad := fun (s : State) => DRd.stopped (stopUnit s k e 3 n.idx n.word)
  match look c.hw.descs h with
  | some d => if d.ok && d.kind == kind then .ok d s else bad s
  | none =>
    if x.descLen ≤ h then bad s else
    match ctlRead s k e (x.descTable + 64 * h) 64 h n.idx with
    | .stopped s1 => .stopped s1
    | .later => .later
    | .ok b s1 =>
      let d := parseDesc b
      let s2 := s1.onHw k (fun w => { w with descs := put w.descs h d })
      if d.ok && d.kind == kind then .ok d s2 else bad s2

/-- Tiles of a tensor along rows and columns, and in all (R195). -/
def Desc.tRows (d : Desc) : Nat := ceilDiv d.dim1 128
def Desc.tCols (d : Desc) : Nat := ceilDiv d.dim0 128
def Desc.tiles (d : Desc) : Nat := d.tRows * d.tCols * d.dim2 * d.dim3

/-- Lines that a slot needs for a tile of at most so many rows (R242). -/
def Desc.slotNeed (d : Desc) (rows : Nat) : Nat := ceilDiv (slotBytes d.fmt rows 128 d.tailCap d.promoCap) 64

/-- The tile that a walk cursor stands on (R195): dimension 3, dimension 2, tile row, tile column. -/
def Desc.at_ (d : Desc) (cur : Nat) : Nat × Nat × Nat × Nat :=
  let per := d.tRows * d.tCols
  let t := cur % per
  let z := cur / per
  (z / d.dim2, z % d.dim2, (if d.orderRows then t % d.tRows else t / d.tCols), (if d.orderRows then t / d.tRows else t % d.tCols))

/-- Rows and columns of the tile that lie within the shape (R109). -/
def Desc.shapeAt (d : Desc) (i j : Nat) : Nat × Nat := (Nat.min 128 (d.dim1 - 128 * i), Nat.min 128 (d.dim0 - 128 * j))

/-! ### The tile store -/

/-- Line of the tile store at which a slot begins (R233). -/
def RingGeom.line (g : RingGeom) (slot : Nat) : Nat := g.baseLine + slot * g.slotLines

/-- Write bytes and poison to tile-store lines; the last lines written are kept for samples (R472). -/
def tsWrite (h : CoreHw) (line : Nat) (bs : Bytes) (bad : List Nat) : CoreHw :=
  let n := ceilDiv bs.length 64
  let ls := List.range' line n
  { h with
    tstore := Mem.setBytes h.tstore (line * 64) bs
    tbad := ls.foldl (fun (m : SMap Bool) l => if bad.contains (l - line) then put m l true else del m l) h.tbad
    lastLines := (ls.reverse ++ h.lastLines).take 60 }

/-- Poisoned lines among n from a line, counted from it. -/
def tsBad (h : CoreHw) (line n : Nat) : List Nat := (List.range n).filter (fun i => get false h.tbad (line + i))

/-- A line has taken the poison bit: the header of a slot that holds it shows it (R235). -/
def notePoison (s : State) (k line : Nat) : State :=
  s.onC k (fun c => { c with cx := { c.cx with rings := c.cx.rings.map (fun x =>
    let i := (line - x.geom.baseLine) / x.geom.slotLines
    if x.geom.valid ∧ x.geom.baseLine ≤ line ∧ 0 < x.geom.slotLines ∧ (nth .empty x.slots i).st = .valid
    then { x with slots := modNth x.slots i (fun y => { y with poison := true }) } else x) } })

/-- Errors that a read of tile-store lines finds (R93): corrected and counted, or the line is poisoned and ECC_UE
raised once. -/
def meetTile (s : State) (k : Nat) (fl : Flaws) (line n : Nat) : State :=
  fl.foldl (fun (s : State) p =>
    if line ≤ p.1 ∧ p.1 < line + n then
      match p.2 with
      | .ce => tstoreCe (s.regs k (fun r => { r with tsCe := hold 32 r.tsCe 1 })) k
      | .ue =>
        if get false (s.core k).hw.tbad p.1 then s else
        let s0 := (s.regs k (fun r => { r with tsUe := hold 16 r.tsUe 1 })).onHw k (fun h => { h with tbad := put h.tbad p.1 true })
        let s1 := notePoison s0 k p.1
        let s2 := report s1 { coreFault s k 6 5 0 p.1 2 0 with sev := 0, engine := 0x80 }
        rateHit s2 (k / 68) 13 (k % 68) 0 0 1 (k % 68)
    else s) s

/-- A slot's tile as it stands in the tile store. -/
def Core.tile (c : Core) (r i : Nat) : Tile :=
  let g := (nth .empty c.cx.rings r).geom
  let x := nth .empty (nth .empty c.cx.rings r).slots i
  let n := slotBytes x.fmt x.rows x.cols x.tailCap x.promoCap
  { fmt := x.fmt, rows := x.rows, cols := x.cols, axis := x.axis, tailCap := x.tailCap, promoCap := x.promoCap,
    bytes := Mem.bytes c.hw.tstore (g.line i * 64) n, bad := tsBad c.hw (g.line i) (ceilDiv n 64) }

/-- The WAITMEM read that the TE queue has in flight (R254). -/
def Core.teReads (c : Core) : Nat := match c.cx.te.wait with | some w => b2n w.inFlight | none => 0

/-- Operations that a TE has outstanding (R254, R257): those of its commands, and a WAITMEM read in flight. -/
def Core.teOps (c : Core) : Nat :=
  (c.hw.ops.filter (fun o => match o.kind with | .reload _ _ _ _ => false | _ => true)).length + c.teReads

/-- Flaws of tile-store lines, and those of memory lines (log 25). -/
def tsFlaws (fl : Flaws) : Flaws := fl.filter (fun f => decide (f.1 < 98304))
def memFlaws (fl : Flaws) : Flaws := fl.filter (fun f => decide (98304 ≤ f.1))

/-! ### Rings -/

def Core.ring (c : Core) (r : Nat) : Ring := nth .empty c.cx.rings r
def State.onRing (s : State) (k r : Nat) (f : Ring → Ring) : State :=
  s.onCx k (fun x => { x with rings := modNth x.rings r f })

def Ring.onSlot (x : Ring) (i : Nat) (f : Slot → Slot) : Ring := { x with slots := modNth x.slots i f }
def Ring.ullage (x : Ring) : Nat := (x.slots.filter (fun y => y.st == .free)).length

/-- Whether a command may fill, or consume, a ring from an engine (R241, R174 cause 5). -/
def Ring.fillable (x : Ring) (e : Engine) : Bool := x.geom.valid && x.bound.isSome && x.geom.prod == eNum e
def Ring.usable (x : Ring) (e : Engine) : Bool := x.geom.valid && x.bound.isSome && x.geom.cons == eNum e

/-- Claim the slot at TAIL (R236, R198): the header is written and the slot is FILLING. -/
def Ring.claim (x : Ring) (fmt rows cols : Nat) (axis : Bool) (tc pc : Nat) (src : Source) : Ring :=
  { (x.onSlot x.tail (fun _ => ⟨.filling, x.nextTag, fmt, rows, cols, false, axis, tc, pc, src⟩)) with
    tail := (x.tail + 1) % x.geom.slots, nextTag := (x.nextTag + 1) % 256,
    head := if x.ullage = x.slots.length then x.tail else x.head }

def Ring.tailFree (x : Ring) : Bool :=
  match x.slots[x.tail]? with
  | some y => y.st == .free
  | none => false

/-- READ after a consumption (R237, R244). -/
def Ring.advance (x : Ring) : Ring :=
  let n := x.sinceHead + 1
  if x.geom.replay ≠ 0 ∧ n = x.geom.replay then { x with read := x.head, sinceHead := 0, lateSeen := false, lateAt := [] }
  else { x with read := (x.read + 1) % x.geom.slots, sinceHead := n, lateSeen := false, lateAt := [] }

/-- HEAD past the FREE slots that follow it in fill order (R238). In a ring with replay whose pass has not begun, READ
goes with it: the next pass begins at the new HEAD (R244, log 64). -/
def Ring.settle (x : Ring) : Ring :=
  let order := (List.range x.geom.slots).map (fun i => (x.head + i) % x.geom.slots)
  let h := match order.find? (fun i => (nth .empty x.slots i).st != .free) with
    | some h => h
    | none => x.tail
  { x with head := h, read := if x.geom.replay ≠ 0 ∧ x.sinceHead = 0 then h else x.read }

/-- Release a slot (R238): FREE at once. -/
def Ring.release (x : Ring) (i : Nat) : Ring := (x.onSlot i (fun _ => .empty)).settle

/-- The slot at READ, when it is VALID. -/
def Ring.ready (x : Ring) : Option (Nat × Slot) :=
  match x.slots[x.read]? with
  | some y => if y.st = .valid then some (x.read, y) else none
  | none => none

/-- The arrays whose beats follow one another now: beats taken, how often their cover window has ended, and beats of the window
that had passed (R66). -/
def CoreHw.beating (h : CoreHw) : List (Option (Nat × Nat × Nat)) :=
  (List.zip h.cover h.beats).map (fun p => if p.1.1 = .work ∨ p.1.1 = .cover then some (p.2.1, p.2.2, if p.1.1 = .cover then p.1.2 else 0) else none)

/-- A consumer reaches a slot that is not VALID: late, once (R249). -/
def lateSlot (s : State) (k r : Nat) : State :=
  if ((s.core k).ring r).lateSeen then s else
  (s.onRing k r (fun x => { x with lateSeen := true, lateAt := (s.core k).hw.beating })).regs k (fun g => { g with late := hold 48 g.late 1 })

/-- Whether a wait on a ring has outlasted MAX_BEATS (R249), as an array tells that worked or was covered when it began: by the
beats that it has taken since in the same window, or by the end of a window of which no beat had passed then. -/
def Core.outlasted (c : Core) (r : Nat) : Option Bool :=
  (List.zip (c.ring r).lateAt c.hw.beats).findSome? (fun p => p.1.bind (fun a =>
    if Nat.min 2500 c.hw.regs.maxBeats < p.2.1 - a.1 then some true
    else if a.2.1 = p.2.2 then some false
    else if a.2.2 = 0 then some true else none))

/-- A consumer takes a slot it had to wait for: UNCOVERED when the wait outlasted MAX_BEATS (R249). Where every array was idle,
or in the midst of a window that ended since, no command counts the beats that passed, and a free value decides (log 18). -/
def uncovered (s : State) (k r : Nat) : State :=
  let c := s.core k
  if !(c.ring r).lateSeen then s else
  let add := fun (s : State) => s.regs k (fun g => { g with lateUncov := hold 16 g.lateUncov 1 })
  match c.outlasted r with
  | some b => if b then add s else s
  | none => let (v, s1) := s.fresh
            if v % 2 = 1 then add s1 else s1

/-- Take the slot at READ for a consumer and advance READ. -/
def takeSlot (s : State) (k r : Nat) : State := (uncovered s k r).onRing k r Ring.advance

/-- Lines of a slot were written with the poison bit: counted as tile-store and as stream poison (R93, R252). -/
def poisonIn (s : State) (k n : Nat) : State :=
  s.regs k (fun q => { q with flowPoison := hold 16 q.flowPoison n, tsPoison := hold 16 q.tsPoison n })

/-- Whether an operation reads a slot of its context's ring. -/
def TeOp.reads (o : TeOp) (r i : Nat) : Bool :=
  !o.dead && match o.kind with
    | .store r' i' => r' == r && i' == i
    | .scatter r' i' _ _ => r' == r && i' == i
    | .put r' i' _ _ => r' == r && i' == i
    | _ => false

/-- An operation has released its slot (R238). DESIGN CHOICE: where READ has come round and a later operation stores the same
slot (R244), the slot is FREE with the last of them (log 80). -/
def releaseOp (s : State) (k id r i : Nat) : State :=
  if (s.core k).hw.ops.any (fun o => o.id != id && o.reads r i) then s else s.onRing k r (fun x => x.release i)

/-- Write a tile into a claimed slot: lines, POISON of the header, VALID; POISON_IN counts the poisoned lines (R252). -/
def fillSlot (s : State) (k r i : Nat) (t : Tile) : State :=
  let g := ((s.core k).ring r).geom
  let s1 := s.onHw k (fun h => tsWrite h (g.line i) t.bytes t.bad)
  let s2 := s1.onRing k r (fun x => x.onSlot i (fun y => { y with st := .valid, poison := !t.bad.isEmpty }))
  poisonIn s2 k t.bad.length

/-! ### The ring table (R239, R240, R247, R530) -/

/-- An entry of 16 bytes. -/
def parseGeom (b : Bytes) : RingGeom :=
  let f := field b 7 1
  { valid := bit f 7, baseLine := field b 0 4, slotLines := field b 4 2, slots := field b 6 1, prod := bits f 6 5,
    cons := bits f 4 3, replay := field b 8 1 % 32, group := field b 9 1 % 64 }

def RingGeom.lines (g : RingGeom) : Nat := g.slotLines * g.slots

/-- Ranges of an entry's fields (R239); `inGroup` says whether a group holds the logical core. -/
def RingGeom.rangeOk (g : RingGeom) (inGroup : Nat → Bool) : Bool :=
  decide (1 ≤ g.slotLines) && decide (g.slotLines ≤ 2048) && decide (3 ≤ g.slots) && decide (g.slots ≤ 16) && g.cons != 0
    && decide (g.replay ≤ g.slots) && decide (g.baseLine + g.lines ≤ 98304) && (g.prod != 0 || inGroup g.group)

def RingGeom.apart (a b : RingGeom) : Bool :=
  decide (a.baseLine + a.lines ≤ b.baseLine) || decide (b.baseLine + b.lines ≤ a.baseLine)

def RingGeom.made (g : RingGeom) : Nat := if g.valid && (g.prod == 1 || g.prod == 2) then g.lines else 0

/-- The first entry that breaks R240, if any. -/
def tableFault (gs : List RingGeom) (inGroup : Nat → Bool) : Option Nat :=
  let n := (List.range gs.length).find? (fun i =>
    let g := nth .none gs i
    g.valid && (!g.rangeOk inGroup || (List.range i).any (fun j => (nth .none gs j).valid && !g.apart (nth .none gs j))
      || decide (8192 < ((gs.take (i + 1)).map RingGeom.made).sum)))
  n

/-- The members of a group of a core's partition (R298, R299). -/
def State.groupHas (s : State) (p lc g : Nat) : Bool := bit (get 0 (s.part p).groups g) lc

/-- A ring with nothing in it that takes an entry. -/
def Ring.fresh (g : RingGeom) : Ring := { Ring.empty with geom := g, slots := List.replicate g.slots .empty }

/-! ### The rings that commands name (R178 to R181) -/

def veDst (w : CmdWord) : Nat := wf w 111 107
def veTiles (w : CmdWord) : Nat := cnt 4096 (wf w 91 80)
def veMout (w : CmdWord) : Nat := wf w 79 75

/-- The source rings that a command uses, in order. -/
def veSources (w : CmdWord) : List Nat :=
  let a := wf w 106 102
  let b := wf w 101 97
  let c := wf w 96 92
  match opcode w with
  | 0x83 => [a, b]
  | 0x84 => [a, b, c]
  | 0x87 => [a, b]
  | 0x89 => if bit w.toNat 47 then [a, b] else [a]
  | 0x8A => [a, b]
  | 0x8B => [a, b, c]
  | 0x8C => if bit w.toNat 59 then [a, b] else [a]
  | 0x8D => [a, b, c]
  | _ => [a]

/-- Every ring that a VE command names (R180). -/
def veRings (w : CmdWord) : List Nat :=
  if opcode w = 0x80 then [] else veDst w :: veSources w ++ (if opcode w = 0x8D then [veMout w] else [])

def TeCmd.op (t : TeCmd) : Nat := opcode t.word

/-- The ring that a begun command works on, and its side: 0 fill, 1 consume, 2 RE-ARM. -/
def TeCmd.ring (t : TeCmd) : Option (Nat × Nat) :=
  match t.op with
  | 0xC0 => (t.d.bind Desc.ring).map (fun r => (r, 2))
  | 0xC1 => some (wf t.word 111 107, 0)
  | 0xC2 => some (wf t.word 111 107, 1)
  | 0xC3 => some (wf t.word 111 107, 0)
  | 0xC4 => some (wf t.word 111 107, 1)
  | 0xC7 => some (wf t.word 111 107, 1)
  | _ => none

/-- Whether a ring is empty (R247): every slot FREE, and no begun command on it. The operations of an aborted context are on none
of its rings (R476). -/
def Core.ringIdle (c : Core) (r : Nat) : Bool :=
  ((c.ring r).slots.all (fun y => y.st == .free))
    && !(c.hw.ops ++ c.cx.stuck).any (fun o => !o.dead && (some o.ctx == c.ctx || c.ctx.isNone) && match o.kind with
      | .fill r' _ _ => r' == r | .refill r' _ _ => r' == r | .store r' _ => r' == r | .scatter r' _ _ _ => r' == r
      | .put r' _ _ _ => r' == r | .mcast r' _ _ => r' == r | _ => false)
    && !c.cx.begun.any (fun t => t.ring.map Prod.fst == some r)
    && !c.cx.ve.q.any (fun n => n.st == .begun && engineOf n.word == 2 && 0x80 ≤ opcode n.word && (veRings n.word).contains r)
    && !c.cx.ope.q.any (fun n => n.st == .begun &&
      ((opcode n.word == 0x42 && wf n.word 91 87 == r) || (opcode n.word == 0x43 && wf n.word 109 105 == r)))
    && !c.cx.arrs.any (fun a => (a.b0.st == .loading && a.b0.ring == r) || (a.b1.st == .loading && a.b1.ring == r))

/-- The entries of a table's 512 bytes. -/
def parseTable (tab : Bytes) : List RingGeom := (List.range 32).map (fun r => parseGeom (slice tab (16 * r) 16))

/-- Whether an entry read afresh passes R240 beside the rings that hold lines (R530). -/
def RingGeom.fits (g : RingGeom) (inGroup : Nat → Bool) (held : List RingGeom) : Bool :=
  g.valid && g.rangeOk inGroup && held.all g.apart && (g.made == 0 || decide (((g :: held).map RingGeom.made).sum ≤ 8192))

/-- Take the entries of the rings in a list afresh from a table (R530), in ring order: an entry is checked against the
rings that keep their geometry and the entries taken before it (log 71); one that fails leaves its ring unbound. DESIGN CHOICE:
a ring whose geometry changes starts with TAIL, READ and HEAD at slot 0 and no replay count, and keeps its next tag, binding and
cursors; one whose geometry stays keeps everything. The spec does not say what an entry taken afresh leaves (log 80). -/
def takeEntries (s : State) (k : Nat) (rs : List Nat) (tab : List RingGeom) : State :=
  let c := s.core k
  let kept := ((List.range 32).filter (fun r => !rs.contains r)).map (fun r => (c.ring r).geom)
  (rs.foldl (fun (a : List RingGeom × State) r =>
    let e := nth .none tab r
    let g := if e.fits (s.groupHas c.part c.lcore) a.1 then e else .none
    (if g.valid then g :: a.1 else a.1, a.2.onRing k r (fun x => if x.geom = g then x else
      { Ring.fresh g with bound := if g.valid then x.bound else none, nextTag := x.nextTag, walk := x.walk, idx := x.idx })))
    (kept.filter RingGeom.valid, s)).2

end Sys2Proof.Machine
end

