-- ==== Sys2Proof/Machine/CommandCore.lean ====
section
/-! DEFINITION. The command core (chapter 06, R167 to R192, R247): checks, dispatch, loops, comparators, marks. -/

set_option autoImplicit false

namespace Sys2Proof.Machine

/-! ### Checks of a word (R174) -/

/-- Whether an opcode admits an ENGINE (R175). -/
def opcodeOk (o e : Nat) : Bool :=
  if o ≤ 0x07 then e == 0
  else if 0x10 ≤ o ∧ o ≤ 0x15 then 1 ≤ e
  else if 0x40 ≤ o ∧ o ≤ 0x43 then e == 1
  else if 0x80 ≤ o ∧ o ≤ 0x8D then e == 2
  else if 0xC0 ≤ o ∧ o ≤ 0xC8 then e == 3
  else false

/-- A field value that its table marks reserved or not allowed (R176 to R181, R132, R326, R178). -/
def valueBad (w : CmdWord) : Bool :=
  match opcode w with
  | 0x04 => 4 ≤ wf w 104 102
  | 0x06 => wf w 111 110 == 0 || wf w 111 110 == 3
  | 0x43 => !([0, 1, 3, 4].contains (wf w 104 100)) || 2 ≤ wf w 91 90
  | 0x81 => 0x0D < wf w 79 75 || wf w 74 73 == 3
  | 0x82 => 0x0D < wf w 79 75 || wf w 79 75 == 0 || wf w 55 54 == 3
  | 0x83 => 4 < wf w 79 76 || wf w 73 72 == 3
  | 0x84 => wf w 71 70 == 3
  | 0x85 => wf w 15 14 == 3
  | 0x86 => 7 < wf w 79 76 || wf w 59 58 == 3
  | 0x87 => 7 < wf w 79 76 || wf w 79 76 == 0 || wf w 59 58 == 3
      || (wf w 79 76 == 2 && !(Val.zero.lt (Fmt.bf16.decode (wf w 75 60))))
  | 0x88 => 3 < wf w 79 76
  | 0x89 => wf w 46 45 == 3
  | 0x8A => wf w 79 78 == 3
  | 0x8B => wf w 79 78 == 3
  | 0x8C => 1 < wf w 79 76 || wf w 58 57 == 3
  | _ => false

/-- Cause 1 or 2 of R174, or 0. -/
def checkWord (w : CmdWord) : Nat :=
  if !opcodeOk (opcode w) (engineOf w) then 1 else if valueBad w then 2 else 0

/-- Body words of a LOOP, and words of a SKIP (R177). -/
def spanOf (w : CmdWord) : Nat := if opcode w = 1 then cnt 256 (wf w 75 68) else cnt 256 (wf w 107 100)

/-- The words of a span that does not execute, checked for causes 1, 2 and 4 (R174): `ends` holds where each body around
the word ends, innermost first; `depth` counts the loops around the span. Answers place and cause. -/
def checkSpan (depth : Nat) : List (Option Nat) → Nat → List CmdWord → Option (Nat × Nat)
  | _, _, [] => none
  | ends, pos, w :: ws =>
    let es := (ends.dropLast.dropWhile (fun e => match e with | some n => decide (n ≤ pos) | none => false)) ++
      (match ends.getLast? with | some e => [e] | none => [])
    let c := checkWord w
    if c ≠ 0 then some (pos, c)
    else if opcode w = 1 ∨ opcode w = 5 then
      let stop := pos + 1 + spanOf w
      let past := match es.head? with | some (some e) => decide (e < stop) | _ => false
      if past then some (pos, 4)
      else if opcode w = 1 then
        if 4 < depth + es.length then some (pos, 4) else checkSpan depth (some stop :: es) (pos + 1) ws
      else checkSpan depth es (pos + 1) ws
    else checkSpan depth es (pos + 1) ws

/-! ### Scalar state -/

/-- A comparator's value now (R188). -/
def Cmp.eval (c : Cmp) (lcs : List Nat) : Bool :=
  let v := nth 0 lcs c.lc
  match c.op with
  | 0 => v == c.imm
  | 1 => v != c.imm
  | 2 => decide (v < c.imm)
  | _ => decide (c.imm ≤ v)

def CC.cmp (x : CC) (n : Nat) : Bool := (nth ⟨0, 0, 0⟩ x.cmps n).eval x.lcs

/-- Whether a word executes (R173). -/
def CC.takes (x : CC) (w : CmdWord) : Bool := !predBit w || (x.cmp (predCmp w) != predNeg w)

/-- Loops whose body has ended go on or end, innermost first (R186): the next iteration writes its index, the end
writes COUNT. -/
def settleFrames : List Frame → List Nat → List Frame × List Nat
  | [], lcs => ([], lcs)
  | f :: rest, lcs =>
    if f.pos < f.len then (f :: rest, lcs)
    else if f.i + 1 < f.count then
      ({ f with pos := 0, i := f.i + 1 } :: rest, modNth lcs f.lc (fun _ => f.i + 1))
    else settleFrames rest (modNth lcs f.lc (fun _ => f.count))

/-- Move past n words: in the innermost body, or in the stream. -/
def CC.past (x : CC) (n : Nat) : CC :=
  match x.frames with
  | [] => { x with consumer := x.consumer + n }
  | f :: rest =>
    let (fs, l) := settleFrames ({ f with pos := f.pos + n } :: rest) x.lcs
    { x with frames := fs, lcs := l }

/-- Words left in the innermost body from the present one on; none outside a loop. -/
def CC.left (x : CC) : Option Nat := x.frames.head?.map (fun f => f.len - f.pos)

/-- Words that the CC may take. -/
def CC.have_ (x : CC) : Nat := match x.limit with | some l => Nat.min l x.producer | none => x.producer

/-- Whether the CC is idle (R170): nothing to dispatch and every queue empty. DESIGN CHOICE: with a loop body still to run the
CC is not idle, though CONSUMER is at PRODUCER; R468 calls a remaining loop body work (log 80). -/
def Core.ccIdle (c : Core) : Bool :=
  c.cx.cc.frames.isEmpty && c.cx.cc.consumer == c.cx.cc.have_ && c.cx.ope.q.isEmpty && c.cx.ve.q.isEmpty && c.cx.te.q.isEmpty

/-- Write CONSUMER to the header at least once per 16 words, and when the CC has become idle (R170): a CC that became idle
with the last retirement of its queues writes before its next act, a dispatch, a poll or a switch-out (log 72). -/
def writeBack (s : State) (k : Nat) : State :=
  let x := (s.core k).cx.cc
  if ((s.core k).ccIdle && x.written != x.consumer) || decide (16 ≤ x.consumer - x.written) then
    (ctlWrite s k .cc (x.hdr + 0x18) (natLe 8 x.consumer)).onCC k (fun y => { y with written := x.consumer })
  else s

/-! ### Fetching -/

/-- Read PRODUCER from the header (R169, R171); past expiry no word beyond the limit is taken (R458). DESIGN CHOICE: a header
that breaks R171 is captured with INDEX at CONSUMER and FAULT_WORD 0, as no word was read (log 68). -/
def readProducer (s : State) (k : Nat) : Rd :=
  let x := (s.core k).cx.cc
  match ctlRead s k .cc x.hdr 64 x.consumer x.consumer with
  | .ok b s1 =>
    let p := field b 0x10 8
    if p < x.producer ∨ x.consumer + 2 ^ x.size < p then .stopped (stopUnit s1 k .cc 5 x.consumer 0)
    else .ok [] (s1.onCC k (fun y => { y with producer := p }))
  | r => r

/-- Words n from index i of the stream (R168); a poisoned line stops the CC. -/
def fetchWords (s : State) (k i : Nat) : Nat → Rd × List CmdWord
  | 0 => (.ok [] s, [])
  | n + 1 =>
    match fetchWords s k i n with
    | (.ok _ s1, ws) =>
      let x := (s1.core k).cx.cc
      let j := i + n
      match ctlRead s1 k .cc (x.base + j % 2 ^ x.size * 16) 16 j j with
      | .ok b s2 => (.ok [] s2, ws ++ [BitVec.ofNat 128 (leNat b)])
      | r => (r, ws)
    | r => r

/-- What stands next before the CC. -/
inductive NextWord
  | word (w : CmdWord) (idx : Nat) (s : State)
  | none (s : State)
  | stopped (s : State)
  deriving DecidableEq, Repr

/-- Make n words from CONSUMER known, reading PRODUCER when needed; `none` where it does not cover them. -/
def cover (s : State) (k n : Nat) : NextWord :=
  let x := (s.core k).cx.cc
  if x.consumer + n ≤ x.have_ then .word 0 0 s else
  match readProducer s k with
  | .ok _ s1 => if x.consumer + n ≤ (s1.core k).cx.cc.have_ then .word 0 0 s1 else .none s1
  | .stopped s1 => .stopped s1
  | .later => .none s

/-- The next word: from the innermost body (R187), else from the ring. -/
def nextWord (s : State) (k : Nat) : NextWord :=
  let x := (s.core k).cx.cc
  match x.frames with
  | f :: _ => .word (nth 0 x.buf (f.start + f.pos)) (x.bufIdx + f.start + f.pos) s
  | [] =>
    match cover s k 1 with
    | .word _ _ s1 =>
      match fetchWords s1 k x.consumer 1 with
      | (.ok _ s2, w :: _) => .word w x.consumer s2
      | (.stopped s2, _) => .stopped s2
      | _ => .none s1
    | r => r

/-! ### Executing -/

/-- The n words after the present one, when they are there: inside a body they lie in the buffer. -/
def spanWords (s : State) (k n : Nat) : NextWord × List CmdWord :=
  let x := (s.core k).cx.cc
  match x.frames with
  | f :: _ => (.word 0 0 s, (x.buf.drop (f.start + f.pos + 1)).take n)
  | [] =>
    match cover s k (1 + n) with
    | .word _ _ s1 =>
      match fetchWords s1 k (x.consumer + 1) n with
      | (.ok _ s2, ws) => (.word 0 0 s2, ws)
      | (.stopped s2, _) => (.stopped s2, [])
      | (.later, _) => (.none s1, [])
    | r => (r, [])

/-- Consume the present word with n words that do not execute, once they are there and pass their checks; `f` is what the
word itself does first. DESIGN CHOICE: a taken SKIP consumes exactly its N words, also where they take in a LOOP word and not
the whole of its body, whose rest is dispatched then; R186 has a LOOP that does not execute consume its body, and the spec does
not say which wins (log 80). -/
def passSpan (s : State) (k n : Nat) (depth : Nat) (stop : Option Nat) (idx : Nat) (f : CC → CC) : State :=
  match spanWords s k n with
  | (.word _ _ s1, ws) =>
    match checkSpan depth [stop] 0 ws with
    | some (p, c) => stopUnit s1 k .cc c (idx + 1 + p) (nth 0 ws p)
    | none => s1.onCC k (fun x => (f { x with waitWords := false }).past (1 + n))
  | (.none s1, _) => s1.onCC k (fun x => { x with waitWords := true })
  | (.stopped s1, _) => s1

/-- Begin a LOOP (R186, R187): its body is copied into the buffer and consumed. -/
def startLoop (s : State) (k : Nat) (w : CmdWord) (idx : Nat) : State :=
  let n := spanOf w
  let lc := wf w 111 108
  let count := wf w 107 76
  let depth := (s.core k).cx.cc.frames.length
  if count = 0 then
    passSpan s k n (depth + 1) (some n) idx (fun x => { x with lcs := modNth x.lcs lc (fun _ => 0) })
  else
  match spanWords s k n with
  | (.word _ _ s1, ws) =>
    s1.onCC k (fun x =>
      let y := { x with waitWords := false, lcs := modNth x.lcs lc (fun _ => 0) }
      match y.frames with
      | [] => { y with buf := ws, bufIdx := idx + 1, consumer := y.consumer + 1 + n, frames := [⟨0, n, 0, 0, count, lc⟩] }
      | f :: rest => { y with frames := ⟨f.start + f.pos + 1, n, 0, 0, count, lc⟩ :: { f with pos := f.pos + 1 + n } :: rest })
  | (.none s1, _) => s1.onCC k (fun x => { x with waitWords := true })
  | (.stopped s1, _) => s1

/-- The ring-table entries of the listed rings, read one by one (R247, R530): a read that is refused or poisoned stops the
CC, with a fault that names the ring by the address of its entry, or by its number. A context whose creation gave no table
has the STREAM defaults of that moment (R239, R299). -/
def readTable (s : State) (k idx : Nat) (rs : List Nat) : Option (List RingGeom) × State :=
  let c := s.core k
  let x := s.ctx (c.ctx.getD 0)
  if x.ringVa = 0 then (some x.stream, s) else
  let r := rs.foldl (fun (a : Option (SMap RingGeom) × State) r => match a.1 with
    | none => a
    | some m => match ctlRead a.2 k .cc (x.ringVa + 512 * c.lcore + 16 * r) 16 r idx with
      | .ok b s1 => (some (put m r (parseGeom b)), s1)
      | .stopped s1 => (none, s1)
      | .later => (none, a.2)) (some [], s)
  (r.1.map (fun m => (List.range 32).map (get .none m)), r.2)

/-- DSYNC (R196, R247, R530): the descriptor cache is dropped and the entries of empty rings are read again. -/
def dsync (s : State) (k idx : Nat) : State :=
  let idle := (List.range 32).filter (s.core k).ringIdle
  match readTable (s.onHw k (fun h => { h with descs := [] })) k idx idle with
  | (some tab, s1) => (takeEntries s1 k idle tab).onCC k (fun x => x.past 1)
  | (none, s1) => s1

/-- Execute a CC word that takes one word (R177, R188, R190, R191). -/
def ccWord (s : State) (k : Nat) (w : CmdWord) (idx : Nat) : State :=
  match opcode w with
  | 0x02 => s.onCC k (fun x => { x with lcs := modNth x.lcs (wf w 111 108) (fun _ => wf w 107 76) }.past 1)
  | 0x03 => s.onCC k (fun x => { x with lcs := modNth x.lcs (wf w 111 108) (fun v => (v + wf w 107 76) % 2 ^ 32) }.past 1)
  | 0x04 => s.onCC k (fun x => { x with cmps := modNth x.cmps (wf w 111 109) (fun _ => ⟨wf w 108 105, wf w 104 102, wf w 101 70⟩) }.past 1)
  | 0x06 =>
    let n := wf w 109 78
    let hdr := (s.core k).cx.cc.hdr
    if wf w 111 110 = 1 then
      (ctlWrite s k .cc (hdr + 0x20) (natLe 8 n)).onCC k (fun x => { x with step := n, quiesced := x.quiesceReq }.past 1)
    else (ctlWrite s k .cc (hdr + 0x28) (natLe 8 n)).onCC k (fun x => { x with keep := n }.past 1)
  | 0x07 => dsync s k idx
  | _ => s.onCC k (fun x => x.past 1)

/-- The row of the table that a CC word falls under: opcode, and KIND for a MARK. -/
def ccRow (w : CmdWord) : Nat := if opcode w = 6 then 0x60 + wf w 111 110 else opcode w

/-- Dispatch a word (R173, R174, R182). -/
def dispatchWord (s : State) (k : Nat) (w : CmdWord) (idx : Nat) : State :=
  let x := (s.core k).cx.cc
  let c := checkWord w
  if c ≠ 0 then stopUnit s k .cc c idx w else
  let isLoop := opcode w == 1
  let isSkip := opcode w == 5
  let past := (isLoop || isSkip) && (match x.left with | some l => decide (l < 1 + spanOf w) | none => false)
  if past || (isLoop && decide (4 ≤ x.frames.length)) then stopUnit s k .cc 4 idx w else
  if !x.takes w then
    if isLoop then passSpan s k (spanOf w) (x.frames.length + 1) (some (spanOf w)) idx id
    else s.onCC k (fun y => y.past 1)
  else
  let ran := fun (t : State) => t.progress k 0
  if engineOf w ≠ 0 then
    let e := match engineOf w with | 1 => Engine.ope | 2 => .ve | _ => .te
    let q := (s.core k).eng e
    if 64 ≤ q.q.length then s.onCC k (fun y => { y with stalled := true })
    else ran ((s.onEng k e (fun q => { q with q := q.q ++ [⟨w, idx, q.nextSeq, .waiting⟩], nextSeq := q.nextSeq + 1 })).onCC k
      (fun y => { y with stalled := false }.past 1))
  else if isLoop then
    let t := startLoop s k w idx
    if (t.core k).cx.cc.waitWords || (t.core k).cx.cc.stopped then t else ran t
  else if isSkip then
    if x.cmp (wf w 111 109) != bit w.toNat 108 then
      let t := passSpan s k (spanOf w) x.frames.length (x.left.map (fun l => l - 1)) idx id
      if (t.core k).cx.cc.waitWords || (t.core k).cx.cc.stopped then t else ran t
    else ran (s.onCC k (fun y => y.past 1))
  else ran (ccWord s k w idx)

/-- One dispatch of a core's CC, for a given row of the table or for any word: nothing happens while no context is
resident, the CC is stopped or quiesced, or the next word is of another row. -/
def dispatch (s : State) (k : Nat) (row : Option Nat) : State :=
  let x := (s.core k).cx.cc
  if (s.liveOn k).isNone || x.stopped || x.quiesced || x.boundary then s else
  match nextWord (writeBack s k) k with
  | .stopped s1 => s1
  | .none s1 => match row with | none => s1 | some _ => s
  | .word w idx s1 =>
    match row with
    | some r => if ccRow w = r ∧ engineOf w = 0 then writeBack (dispatchWord s1 k w idx) k else s
    | none => writeBack (dispatchWord s1 k w idx) k

/-- Load the header at a switch-in (R171): BASE and SIZE_LOG2 are checked before any word is fetched. The capture of a bad
header is that of readProducer (log 68). -/
def loadHeader (s : State) (k hdr : Nat) : State :=
  let s0 := s.onCC k (fun x => { x with hdr := hdr })
  match ctlRead s0 k .cc hdr 64 (s0.core k).cx.cc.consumer (s0.core k).cx.cc.consumer with
  | .stopped s1 => s1
  | .later => s0
  | .ok b s1 =>
    let base := field b 0 8
    let size := field b 8 1
    let s2 := s1.onCC k (fun x => { x with base := base, size := size })
    if size < 8 ∨ 22 < size ∨ base % 4096 ≠ 0 ∨ 2 ^ 52 ≤ base then stopUnit s2 k .cc 5 (s2.core k).cx.cc.consumer 0
    else match readProducer s2 k with
      | .ok _ s3 => s3
      | .stopped s3 => s3
      | .later => s2

/-! ### The rows -/

/-- R182. -/
def execCcDispatch (c : CoreId) (s : State) : Res := onCore c s (fun k s => dispatch s k none)

/-- R170: an idle CC reads PRODUCER once per poll and writes CONSUMER back. -/
def execCcProducerPoll (c : CoreId) (s : State) : Res :=
  onCore c s (fun k s =>
    if (s.liveOn k).isNone || (s.core k).cx.cc.stopped || (s.core k).cx.cc.quiesced || !(s.core k).ccIdle then s else
    match readProducer (writeBack s k) k with
    | .ok _ s1 => s1
    | .stopped s1 => s1
    | .later => writeBack s k)

/-- R175: NOP does nothing but be consumed. -/
def execNop (c : CoreId) (s : State) : Res := onCore c s (fun k s => dispatch s k (some 0x00))
/-- R186, R187. -/
def execLoop (c : CoreId) (s : State) : Res := onCore c s (fun k s => dispatch s k (some 0x01))
/-- R177, R186. -/
def execSetlc (c : CoreId) (s : State) : Res := onCore c s (fun k s => dispatch s k (some 0x02))
/-- R177. -/
def execAddlc (c : CoreId) (s : State) : Res := onCore c s (fun k s => dispatch s k (some 0x03))
/-- R188. -/
def execCmpset (c : CoreId) (s : State) : Res := onCore c s (fun k s => dispatch s k (some 0x04))
/-- R189. -/
def execSkip (c : CoreId) (s : State) : Res := onCore c s (fun k s => dispatch s k (some 0x05))
/-- R190. -/
def execMarkStep (c : CoreId) (s : State) : Res := onCore c s (fun k s => dispatch s k (some 0x61))
/-- R191. -/
def execMarkKeep (c : CoreId) (s : State) : Res := onCore c s (fun k s => dispatch s k (some 0x62))
/-- R196, R247, R530. -/
def execDsync (c : CoreId) (s : State) : Res := onCore c s (fun k s => dispatch s k (some 0x07))

end Sys2Proof.Machine
end

