-- ==== Sys2Proof/Machine/Sync.lean ====
section
/-! DEFINITION. Counters, fences, waits and barriers (chapter 07). -/

set_option autoImplicit false

namespace Sys2Proof.Machine

/-! ### Counters (R205 to R211) -/

def Core.ctr (c : Core) (id : Nat) : Option Ctr := c.hw.ctrs.find? (fun x => x.id == id)

/-- A counter used: most recently used first. -/
def CoreHw.touch (h : CoreHw) (id v : Nat) (ctx lc : Nat) : CoreHw :=
  { h with ctrs := ⟨ctx, lc, id, v⟩ :: h.ctrs.filter (fun x => x.id != id) }

/-- The counter an engine is waiting for, and the one whose fill a queue awaits. -/
def Eng.busy (x : Eng) : List Nat :=
  (match x.wait with | some w => if w.kind = .counter then [w.obj] else [] | none => []) ++
  (match x.filling with | some n => [n] | none => [])

/-- A miss: the queue waits for the fill (R209). -/
def missCtr (s : State) (k : Nat) (e : Engine) (id : Nat) : State :=
  if ((s.core k).eng e).filling = some id then s else
  (s.onEng k e (fun x => { x with filling := some id })).regs k (fun r => { r with misses := hold 32 r.misses 1 })

/-- Address of a counter's entry (R208). -/
def ctrVa (s : State) (ctx lc id : Nat) : Nat := (s.ctx ctx).counters + 8192 * lc + 8 * id

/-- A wait's schedule starts again: the next read is at the next poll (R218, R219). -/
def Wait.restart (w : Wait) : Wait := { w with since := w.polls, spacing := 1, next := w.polls + 1 }

/-- The next read after one at this poll (R218): at every poll within the first FULL, then with spacings that double up to
the limit. -/
def Wait.plan (w : Wait) (full cap : Nat) : Wait :=
  if w.polls - w.since < full then { w with next := w.polls + 1 }
  else
    let sp := Nat.min (Nat.max 1 cap) (2 * w.spacing)
    { w with spacing := sp, next := w.polls + sp }

/-- An addition (R207, R218): it saturates at 2^64 − 1, and restarts the schedule of each wait on the counter. -/
def addCtr (s : State) (k id n : Nat) : State :=
  let c := s.core k
  match c.ctr id with
  | none => s
  | some x =>
    let sum := x.val + n
    let v := Nat.min sum (2 ^ 64 - 1)
    let s1 := s.onHw k (fun h => { h.touch id v x.ctx x.lcore with ctrMoves := h.ctrMoves + b2n (v != x.val) })
    let s2 := if 2 ^ 64 ≤ sum then s1.regs k (fun r => { r with sat := hold 8 r.sat 1 }) else s1
    let re := fun (y : Eng) => match y.wait with
      | some w => if w.kind = .counter ∧ w.obj = id then { y with wait := some w.restart } else y
      | none => y
    ((s2.onEng k .ope re).onEng k .ve re).onEng k .te re

/-- R213: a signal with a writing command after its queue's last FENCE is refused. -/
def refuseSignal (s : State) (k : Nat) (e : Engine) (n : QEntry) : State :=
  let c := s.core k
  let s1 := if c.hw.regs.unfenced.valid then s else s.regs k (fun r => { r with unfenced := ⟨true, eNum e, n.idx⟩ })
  report (haltUnit s1 k e) (coreFault s1 k 2 (1 + eNum e) (eNum e) n.idx 0 0)

/-- R207, R209, R213, R215. -/
def execSignal (c : CoreId) (e : Engine) (s : State) : Res :=
  onCore c s (fun k s =>
    match s.head k e 0x10 with
    | none => s
    | some (_, n) =>
      if ((s.core k).eng e).uncovered then refuseSignal s k e n
      else
        let id := wf n.word 111 102
        match (s.core k).ctr id with
        | none => missCtr s k e id
        | some _ => finish (addCtr s k id (wf n.word 101 70)) k e n.seq)

/-- Whether every covered write before a FENCE is visible: every earlier writing command has completed (R212). -/
def Eng.covered (x : Eng) (seq : Nat) : Bool :=
  (x.q.takeWhile (fun n => n.seq != seq)).all (fun n => !writes n.word || n.st == .done)

/-- Every VE write pending lands: 8 issue periods pass in which the VE starts no issue (R202). -/
def landVe (s : State) (k : Nat) : State :=
  s.onHw k (fun h => if h.writes.isEmpty then h else { h with writes := [], issue := h.issue + 8 })

/-- R212: a FENCE begins, and completes when every earlier write of its queue is visible: for the VE, when the writes of its
last issues have landed too (R202; log 74). -/
def execFence (c : CoreId) (e : Engine) (s : State) : Res :=
  onCore c s (fun k s =>
    let done := fun (s : State) (n : QEntry) =>
      if ((s.core k).eng e).covered n.seq then
        finish ((if e = .ve then landVe s k else s).onEng k e (fun x => { x with uncovered := false })) k e n.seq
      else s
    match s.head k e 0x11 with
    | some (_, n) => done (begin_ s k e n) n
    | none =>
      match s.liveOn k, ((s.core k).eng e).q.find? (fun n => n.st == .begun && opcode n.word == 0x11) with
      | some _, some n => if ((s.core k).eng e).stopped then s else done s n
      | _, _ => s)

/-! ### Waits (R216 to R222) -/

/-- Complete the wait of a queue. -/
def endWait (s : State) (k : Nat) (e : Engine) : State :=
  let x := (s.core k).eng e
  match x.q.find? (fun n => n.st == .begun && blocks n.word) with
  | some n => finish (s.onEng k e (fun y => { y with wait := none })) k e n.seq
  | none => s.onEng k e (fun y => { y with wait := none })

/-- R216, R209: a WAIT begins once its counter is cached; its first read completes it when the value is reached. -/
def execWait (c : CoreId) (e : Engine) (s : State) : Res :=
  onCore c s (fun k s =>
    match s.head k e 0x12 with
    | none => s
    | some (ctx, n) =>
      let id := wf n.word 111 102
      match (s.core k).ctr id with
      | none => missCtr s k e id
      | some x =>
        let s1 := (begin_ s k e n).onHw k (fun h => h.touch id x.val ctx (s.core k).lcore)
        let r := (s.core k).hw.regs
        let w := (⟨.counter, n.idx, id, wf n.word 101 38, wf n.word 37 6, 0, 0, 1, 1, x.val, false⟩ : Wait).plan r.full r.ctrMax
        let s2 := s1.onEng k e (fun y => { y with wait := some w })
        if w.expect ≤ x.val then endWait s2 k e else s2)

/-- MADD and WAITMEM reads take the light path (R253). -/
def lightUse (s : State) (k : Nat) (e : Engine) : State :=
  if e = .te then s.regs k (fun r => { r with flowLight := hold 24 r.flowLight 1 }) else s

/-- Whether an engine may send one more light-path read: a TE has at most 48 operations outstanding (R254, R257). -/
def Core.mayRead (c : Core) (e : Engine) : Bool := e != .te || decide (c.teOps < 48)

/-- R216: a WAITMEM begins and its first read is issued. -/
def execWaitmem (c : CoreId) (e : Engine) (s : State) : Res :=
  onCore c s (fun k s =>
    match s.head k e 0x13 with
    | none => s
    | some (_, n) =>
      if !(s.core k).mayRead e then s else
      match readDesc s k e (wf n.word 111 100) .word n with
      | .stopped s1 => s1
      | .later => s
      | .ok d s1 =>
        let r := (s.core k).hw.regs
        let w := (⟨.mem, n.idx, d.base, wf n.word 99 36, wf n.word 35 4, 0, 0, 1, 1, 0, true⟩ : Wait).plan r.full r.memMax
        lightUse ((begin_ s1 k e n).onEng k e (fun y => { y with wait := some w })) k e)

/-- The cluster's pace does not matter to a poll; a wait counts one and reads by its schedule (R218, R219). -/
def execWaitPoll (c : CoreId) (e : Engine) (s : State) : Res :=
  onCore c s (fun k s =>
    match s.liveOn k, ((s.core k).eng e).wait with
    | some _, some w =>
      let r := (s.core k).hw.regs
      if w.timeout ≠ 0 ∧ w.timeout ≤ w.polls then s else
      let w1 := { w with polls := hold 32 w.polls 1 }
      match w.kind with
      | .barrier => s.onEng k e (fun y => { y with wait := some w1 })
      | .counter =>
        if w1.polls < w1.next then s.onEng k e (fun y => { y with wait := some w1 })
        else
          match (s.core k).ctr w.obj with
          | none => missCtr (s.onEng k e (fun y => { y with wait := some w1 })) k e w.obj
          | some x =>
            let s1 := s.onEng k e (fun y => { y with wait := some { w1.plan r.full r.ctrMax with last := x.val } })
            if w.expect ≤ x.val then endWait s1 k e else s1
      | .mem =>
        if w1.polls < w1.next ∨ w1.inFlight ∨ !(s.core k).mayRead e then s.onEng k e (fun y => { y with wait := some w1 })
        else lightUse (s.onEng k e (fun y => { y with wait := some { w1.plan r.full r.memMax with inFlight := true } })) k e
    | _, _ => s)

/-- The handle of the wait's descriptor, for its fault. -/
def waitHandle (x : Eng) : Nat :=
  match x.q.find? (fun n => n.st == .begun && blocks n.word) with
  | some n => wf n.word 111 100
  | none => 0

/-- What the read of a WAITMEM word finds: refused, poisoned, waiting, or a value. -/
inductive WordRd
  | val (v : Nat) (s : State)
  | stopped (s : State)
  | later
  deriving DecidableEq, Repr

/-- Read the awaited word; poison stops the queue with a POISON that names the word (R222, Case: a WAITMEM reads a poisoned
word). -/
def readWord (s : State) (k : Nat) (e : Engine) (w : Wait) : WordRd :=
  let c := s.core k
  let ctx := c.ctx.getD 0
  let drop := fun (s : State) => s.onEng k e (fun y => { y with wait := none })
  match locate s ctx w.obj .read false with
  | .refused kind => .stopped (drop (refuseStop s k e w.obj kind))
  | .waits _ _ => .later
  | _ =>
    let (bs, bad, s1) := rdVa s c.cluster ctx w.obj 8 false
    if bad.isEmpty then .val (leNat bs) (xlTouch s1 c.die c.cluster ctx w.obj).2
    else .stopped (drop (poisonStop s1 k e w.obj (waitHandle (c.eng e)) w.idx))

/-- R216, R220: the read returns and completes the wait, or the wait goes on. -/
def execWaitmemReadReturn (c : CoreId) (e : Engine) (flaws : Flaws) (s : State) : Res :=
  onCore c (s.plant flaws) (fun k s =>
    match s.liveOn k, ((s.core k).eng e).wait with
    | some _, some w =>
      if w.kind ≠ .mem ∨ !w.inFlight then s else
      match readWord s k e w with
      | .stopped s1 => s1
      | .later => s
      | .val v s1 =>
        let s2 := s1.onEng k e (fun y => { y with wait := some { w with inFlight := false, last := v } })
        if w.expect ≤ v then endWait s2 k e else s2
    | _, _ => s)

/-- R221: the wait retires TIMEOUT, holds its queue, is captured and posted. -/
def timeOut (s : State) (k : Nat) (e : Engine) (w : Wait) (late : Bool) (found : Nat) : State :=
  let c := s.core k
  let s1 := if c.hw.regs.timeout.valid then s else
    s.regs k (fun r => { r with timeout := ⟨true, late, eNum e, if w.kind = .mem then 1 else 0, w.idx⟩ })
  let s2 := (endWait s1 k e).onEng k e (fun x => { x with held := true })
  let ctx := c.ctx.getD 0
  postEvent s2 (some ctx) (k / 68) 2
    (natLe 2 ctx ++ natLe 1 c.lcore ++ natLe 1 (128 * b2n late + eNum e) ++ zeros 4 ++ natLe 8 w.idx ++ natLe 8 w.expect ++ natLe 8 found)

/-- R220: the count reaches TIMEOUT and the arbiter orders it against an arrival at that moment: `late` says that an
arrival lost. The arbiter takes a read in flight first: the wait does not retire before it returns, and a poisoned one is
neither arrival nor timeout (R222). A counter that is not cached is read in its table. -/
def execWaitTimeout (c : CoreId) (e : Engine) (late : Bool) (s : State) : Res :=
  onCore c s (fun k s =>
    match s.liveOn k, ((s.core k).eng e).wait with
    | some _, some w =>
      if w.kind = .barrier ∨ w.timeout = 0 ∨ w.polls < w.timeout then s else
      match w.kind with
      | .counter =>
        let go := fun (s : State) (v : Nat) =>
          if w.expect ≤ v ∧ !late then endWait s k e else timeOut s k e w (decide (w.expect ≤ v)) v
        (match (s.core k).ctr w.obj with
        | some x => go s x.val
        | none => match ctlRead s k e (ctrVa s ((s.core k).ctx.getD 0) (s.core k).lcore w.obj) 8 w.obj w.idx with
          | .ok b s1 => go s1 (leNat b)
          | .stopped s1 => s1.onEng k e (fun y => { y with wait := none })
          | .later => s)
      | _ =>
        if !w.inFlight then timeOut s k e w false w.last else
        match readWord s k e w with
        | .stopped s1 => s1
        | .later => s
        | .val v s1 => if w.expect ≤ v ∧ !late then endWait s1 k e else timeOut s1 k e w (decide (w.expect ≤ v)) v
    | _, _ => s)

/-- R209, R210: the miss is filled from the counter table after one victim, least recently used and not busy, is
written back; a refused access or a poisoned line stops the queue. -/
def execCounterXlateFill (c : CoreId) (e : Engine) (s : State) : Res :=
  onCore c s (fun k s =>
    let co := s.core k
    match s.liveOn k, (co.eng e).filling with
    | some ctx, some id =>
      let s0 := s.onEng k e (fun x => { x with filling := none })
      match co.ctr id with
      | some _ => s0
      | none =>
        let busy := co.cx.ope.busy ++ co.cx.ve.busy ++ co.cx.te.busy
        match ctlRead s0 k e (ctrVa s ctx co.lcore id) 8 id (((co.eng e).next.map QEntry.idx).getD 0) with
        | .stopped s1 => s1
        | .later => s
        | .ok b s1 =>
          let victim := if co.hw.ctrs.length < 256 then none else (co.hw.ctrs.filter (fun x => !busy.contains x.id)).getLast?
          match victim with
          | none => s1.onHw k (fun h => h.touch id (leNat b) ctx co.lcore)
          | some v =>
            let va := ctrVa s ctx co.lcore v.id
            match locateRun s1 ctx va 8 .write false with
            | some (a, .refused kind) => refuseStop s1 k e a kind
            | some _ => s
            | none =>
              (wrVa (xlTouch s1 co.die co.cluster ctx va).2 co.cluster ctx va (natLe 8 v.val) [] false).onHw k (fun h =>
                { h with ctrs := h.ctrs.filter (fun x => x.id != v.id) }.touch id (leNat b) ctx co.lcore)
    | _, _ => s)

/-! ### The partition barrier (R225 to R227) -/

/-- The participants of a barrier. -/
def Barrier.members (b : Barrier) : List Nat := (List.range 64).filter (fun c => bit b.cores c)

/-- R227: the round word is only ever raised; a refusal raises HANG without an engine. -/
def writeRound (s : State) (p : Nat) (b : Barrier) : State :=
  let x := s.part p
  let ctx := x.resident.getD 0
  match locate s ctx b.word .write false with
  | .refused kind => refuseUnit s (p / 8) (p % 8) ctx 0xFF b.word kind
  | l => putLoc (xlTouch s (p / 8) (p % 8) ctx b.word).2 l ⟨ctx, 0, b.word, .raise, natLe 8 b.r, false, p % 8⟩

/-- Stalled arrivals are admitted as far as R has risen (R226). A core whose cluster is halted takes no handshake: its arrival
waits on (R56). -/
def admitStalled (s : State) (p n : Nat) : State :=
  let x := s.part p
  let b := nth .empty x.barriers n
  let core := fun (c : Nat) => 68 * (p / 8) + nth 0 x.phys c
  let go := b.stalled.filter (fun c => decide (get 0 b.g c + 1 ≤ b.r + 2) && !s.haltedAt (core c))
  let s1 := s.setPart p { x with barriers := modNth x.barriers n (fun b => { b with
    g := go.foldl (fun (g : SMap Nat) c => put g c (get 0 g c + 1)) b.g
    stalled := b.stalled.filter (fun c => !go.contains c) }) }
  let e := match b.engine with | 1 => Engine.ope | 2 => .ve | _ => .te
  go.foldl (fun (s : State) c => endWait s (core c) e) s1

/-- Stalled arrivals are admitted and rounds complete, until nothing more moves (R226). -/
def settleBarrier (p n : Nat) : Nat → State → State
  | 0, s => s
  | fuel + 1, s0 =>
    let s := admitStalled s0 p n
    let x := s.part p
    let b := nth .empty x.barriers n
    if b.valid && b.members.all (fun c => decide (b.r + 1 ≤ get 0 b.g c)) then
      let b1 := { b with r := b.r + 1 }
      settleBarrier p n fuel (writeRound (s.setPart p { x with barriers := modNth x.barriers n (fun _ => b1) }) p b1)
    else s

/-- R226: an arrival is admitted for t ≤ R + 2, and stalls its queue for t = R + 3. R225 gives cause 2. -/
def execBarrier (c : CoreId) (e : Engine) (s : State) : Res :=
  onCore c s (fun k s =>
    match s.head k e 0x15 with
    | none => s
    | some (_, n) =>
      if ((s.core k).eng e).uncovered then refuseSignal s k e n else
      let co := s.core k
      let p := co.part
      let x := s.part p
      let i := wf n.word 111 108
      let b := nth .empty x.barriers i
      if !b.valid || !bit b.cores co.lcore || b.engine != eNum e then stopUnit s k e 2 n.idx n.word else
      let t := get 0 b.g co.lcore + 1
      let s1 := begin_ s k e n
      if t ≤ b.r + 2 then
        let s2 := s1.setPart p { x with barriers := modNth x.barriers i (fun b => { b with g := put b.g co.lcore t }) }
        settleBarrier p i 5 (finish s2 k e n.seq)
      else
        let w : Wait := ⟨.barrier, n.idx, i, t - 2, 0, 0, 0, 1, 1, b.r, false⟩
        (s1.setPart p { x with barriers := modNth x.barriers i (fun b => { b with stalled := b.stalled ++ [co.lcore] }) }).onEng k e
          (fun y => { y with wait := some w }))

/-! ### Stall detection (R228 to R230) -/

/-- A queue in a wait: logical core, engine, wait. -/
def State.waits (s : State) (p : Nat) : List (Nat × Engine × Wait) :=
  (s.part p).phys.zipIdx.flatMap (fun x =>
    let c := s.core (68 * (p / 8) + x.1)
    [Engine.ope, .ve, .te].filterMap (fun e => (c.eng e).wait.map (fun w => (x.2, e, w))))

/-- A memory word of a context as it stands. -/
def wordNow (s : State) (ctx va : Nat) : Nat :=
  match locate s ctx va .read false with
  | .at_ a _ _ => leNat (rdPhys s a 8).1
  | _ => 0

/-- The words that a partition's queues await, by address, with their values now. -/
def awaited (s : State) (p : Nat) : SMap Nat :=
  let ctx := (s.part p).resident.getD 0
  (s.waits p).foldl (fun (m : SMap Nat) x => if x.2.2.kind = .mem then put m x.2.2.obj (wordNow s ctx x.2.2.obj) else m) []

/-- CC-M2 samples the awaited words: a change of one that was awaited at the last sample is counted, also where that change has
ended its wait since (R228). -/
def sampleWords (s : State) (p ctx : Nat) : State :=
  let x := s.ctx ctx
  let moved := x.words.any (fun w => wordNow s ctx w.1 != w.2)
  s.setCtx ctx { x with words := awaited s p, wordMoves := x.wordMoves + b2n moved }

/-- What must not change over the span (R228): the wait, the core's counters and retirements, the awaited words, the
barrier rounds. -/
def stallPrint (s : State) (p lc : Nat) (w : Wait) : List Nat :=
  let c := s.core (68 * (p / 8) + nth 0 (s.part p).phys lc)
  [w.idx, w.obj, w.expect, c.hw.ctrMoves, c.hw.retired.sum, (s.ctx ((s.part p).resident.getD 0)).wordMoves]
    ++ (s.part p).barriers.map Barrier.r

/-- An entry of the wait table (R230). -/
def waitEntry (s : State) (p : Nat) (x : Nat × Engine × Wait) : Bytes :=
  let c := s.core (68 * (p / 8) + nth 0 (s.part p).phys x.1)
  let w := x.2.2
  let cur := match w.kind with
    | .counter => ((c.ctr w.obj).map Ctr.val).getD w.last
    | .mem => w.last
    | .barrier => (nth .empty (s.part p).barriers w.obj).r
  let kind := match w.kind with | .counter => 0 | .mem => 1 | .barrier => 2
  natLe 8 cur ++ natLe 8 w.expect ++ natLe 8 w.obj ++ natLe 8 w.idx ++ natLe 4 w.polls ++ natLe 4 c.cx.cc.step
    ++ natLe 4 c.cx.cc.keep ++ natLe 1 x.1 ++ natLe 1 (4 * kind + eNum x.2.1) ++ zeros 18

/-- R229: SYNC_STALL, and the wait table in the context's diagnostic area. -/
def syncStall (s : State) (p ctx i : Nat) : State :=
  let ws := s.waits p
  let x := nth (0, Engine.ope, ⟨.counter, 0, 0, 0, 0, 0, 0, 0, 0, 0, false⟩) ws i
  let cx := s.ctx ctx
  let head := natLe 2 ctx ++ natLe 2 ws.length ++ natLe 4 cx.stallWin ++ natLe 8 (s.die (p / 8)).time ++ natLe 2 i ++ zeros 46
  let tab := head ++ ws.flatMap (waitEntry s p)
  let k := 68 * (p / 8) + nth 0 (s.part p).phys x.1
  let s1 := report s (coreFault s k 3 (1 + eNum x.2.1) (eNum x.2.1) x.2.2.idx cx.diag ws.length)
  let s2 := wrVa s1 (p % 8) ctx cx.diag tab [] false
  { s2 with dump := { s2.dump with tables := s2.dump.tables ++ [tab] } }

/-- R228: CC-M2, while a cellar core runs its role, samples the queues of the resident context; the first one in sync stall
for a window is raised. -/
def execStallSample (d first : Nat) (s0 : State) : Res :=
  onUnit d first 8 s0 (fun s0 =>
    let p := 8 * d + first
    match (s0.part p).resident with
    | none => s0
    | some ctx =>
      if (s0.part p).st ≠ .inService || !roleUp s0 d 2 then s0 else
      let s := sampleWords s0 p ctx
      let x := s.ctx ctx
      let now := (s.die d).time
      let ws := s.waits p
      let fp := ws.map (fun q =>
        let key := 4 * q.1 + eNum q.2.1
        let v := stallPrint s p q.1 q.2.2
        (key, v, match look x.fp key with | some o => if o.1 = v then o.2 else now | none => now))
      let s1 := s.setCtx ctx { x with fp := fp.foldl (fun (m : SMap (List Nat × Nat)) q => put m q.1 (q.2.1, q.2.2)) [] }
      match (List.range fp.length).find? (fun i => decide ((nth (0, [], now) fp i).2.2 + x.stallWin ≤ now)) with
      | none => s1
      | some i =>
        let s2 := syncStall s1 p ctx i
        s2.setCtx ctx { s2.ctx ctx with fp := mapAll (s2.ctx ctx).fp (fun _ v => (v.1, now)) })

/-- R221, R232: each held queue named by the mask goes on with its next command. -/
def execSyncHoldRelease (c : CoreId) (mask : BitVec 3) (s : State) : Res :=
  onCore c s (fun k s =>
    let rel := fun (s : State) (i : Nat) (e : Engine) =>
      if bit mask.toNat i then s.onEng k e (fun x => { x with held := false }) else s
    rel (rel (rel s 0 .ope) 1 .ve) 2 .te)

end Sys2Proof.Machine
end

