-- ==== Sys2Proof/Machine/Outer.lean ====
section
/-! DEFINITION. The outer-product engine (R80 to R112, R144 to R158, R531): operand banks, runs and their beats,
sums in flight, read-out. A fused array keeps its banks and flags under its lower number and its cells in both
physical arrays. -/

set_option autoImplicit false

namespace Sys2Proof.Machine

/-! ### Arrays and banks -/

/-- Whether a core's partition has duo grouping (R89): the partition of its resident context, or the one it belongs to. -/
def State.duoOf (s : State) (k : Nat) : Bool :=
  if (s.core k).ctx.isSome then (s.part (s.core k).part).duo
  else match s.parts.find? (fun p => p.1 / 8 == k / 68 && p.2.phys.contains (k % 68)) with
    | some p => p.2.duo
    | none => false

/-- The array that a number names (R90). -/
def arrOf (duo : Bool) (a : Nat) : Nat := if duo then a / 2 * 2 else a % 4

/-- The arrays that a mask names (R178, R179). -/
def arraysOf (duo : Bool) (m : Nat) : List Nat :=
  if duo then [0, 2].filter (fun a => bit m a || bit m (a + 1)) else (List.range 4).filter (bit m)

/-- The physical arrays of an array (R90). -/
def physArrs (duo : Bool) (a : Nat) : List Nat := if duo then [a, a + 1] else [a]

def Core.arr (c : Core) (a : Nat) : Arr := nth .empty c.cx.arrs a
def State.onArr (s : State) (k a : Nat) (f : Arr → Arr) : State :=
  s.onCx k (fun x => { x with arrs := modNth x.arrs a f })

def Arr.bank (a : Arr) (n : Nat) : Bank := if n = 0 then a.b0 else a.b1
def Arr.setBank (a : Arr) (n : Nat) (b : Bank) : Arr := if n = 0 then { a with b0 := b } else { a with b1 := b }
def Arr.act (a : Arr) : Bank := a.bank a.active
def Arr.shadow (a : Arr) : Bank := a.bank (1 - a.active)

/-- Retire a bank (R85, R100): its slots are released when it was loaded with RELEASE; it becomes EMPTY. -/
def retireBank (s : State) (k a n : Nat) : State :=
  let b := ((s.core k).arr a).bank n
  let s1 := if b.st ≠ .empty ∧ b.release then s.onRing k b.ring (fun r => b.slots.foldl Ring.release r) else s
  s1.onArr k a (fun x => x.setBank n .empty)

/-- Whether a bank that a command loads is still LOADING. -/
def Core.loads (c : Core) (seq : Nat) : Bool :=
  c.cx.arrs.any (fun a => (a.b0.st == .loading && a.b0.seq == seq) || (a.b1.st == .loading && a.b1.seq == seq))

/-- OPLOADs with no bank LOADING any more are complete. -/
def settleLoads (s : State) (k : Nat) : State :=
  ((s.core k).cx.ope.q.filter (fun n => n.st == .begun && opcode n.word == 0x40)).foldl (fun (s : State) n =>
    if (s.core k).loads n.seq then s else finish s k .ope n.seq) s

/-! ### OPLOAD and OPSWAP -/

/-- The source ring of an array in an OPLOAD (R178). -/
def loadRing (w : CmdWord) (a : Nat) : Nat := wf w (107 - 5 * a) (103 - 5 * a)

/-- The next n slots that a consumer takes of a ring, when all are VALID. -/
def Ring.readyN : Ring → Nat → Option (List Nat)
  | _, 0 => some []
  | x, n + 1 => match x.ready with
    | none => none
    | some (i, _) => (x.advance.readyN n).map (i :: ·)

/-- What R241 and R86 say of a ring that the OPE reads: cause 5, cause 3, or 0. An array takes no FP32 operand. -/
def Ring.opeCause (x : Ring) : Nat :=
  if !x.usable .ope then 5 else match x.bound with
    | some b => if b.desc.fmt = 0 then 3 else 0
    | none => 5

/-- A slot whose tile the OPE may take as an operand (R86). -/
def Core.takes (c : Core) (r i : Nat) : Bool := (nth .empty (c.ring r).slots i).fmt != 0

/-- R84, R85, R99, R531: an OPLOAD begins when every slot it needs is VALID and no shadow bank it names is LOADING. It
retires the shadow banks that are LOADED, then takes its slots; its banks are LOADING from then on. A slot that holds FP32
is cause 3 (R86). -/
def execOpload (c : CoreId) (s : State) : Res :=
  onCore c s (fun k s =>
    match s.head k .ope 0x40 with
    | none => s
    | some (_, n) =>
      let duo := s.duoOf k
      let as := arraysOf duo (wf n.word 111 108)
      let per := if duo then 2 else 1
      let co := s.core k
      match as.find? (fun a => (co.ring (loadRing n.word a)).opeCause ≠ 0) with
      | some a => stopUnit s k .ope (co.ring (loadRing n.word a)).opeCause n.idx n.word
      | none =>
        if as.any (fun a => (co.arr a).shadow.st == .loading) then s else
        let rs := (as.map (loadRing n.word)).eraseDups
        let need := fun (r : Nat) => per * (as.filter (fun a => loadRing n.word a == r)).length
        let s0 := as.foldl (fun (s : State) a => retireBank s k a (1 - ((s.core k).arr a).active)) s
        let ready := fun (r : Nat) => ((s0.core k).ring r).readyN (need r)
        let late := rs.filter (fun r => (ready r).isNone)
        if !late.isEmpty then late.foldl (fun (s : State) r => lateSlot s k r) s else
        if rs.any (fun r => ((ready r).getD []).any (fun i => !(s0.core k).takes r i)) then stopUnit s k .ope 3 n.idx n.word else
        let s1 := begin_ s0 k .ope n
        let s2 := as.foldl (fun (s : State) a =>
          let r := loadRing n.word a
          let slots := (((s.core k).ring r).readyN per).getD []
          let u := slots.foldl (fun (s : State) _ => takeSlot s k r) s
          u.onArr k a (fun x => x.setBank (1 - x.active)
            ⟨.loading, 0, r, slots, bit n.word.toNat 85, bit n.word.toNat 87, n.seq, bit n.word.toNat 86, [], false⟩)) s1
        settleLoads s2 k)

/-- Counters that a read of records by the OPE moves (R130, R143). -/
def countDefects (s : State) (k : Nat) (t : Tile) : State :=
  let d := t.defects
  s.regs k (fun r => { r with
    rsvdTag := hold 16 r.rsvdTag d.1, tailOver := hold 16 r.tailOver d.2.1, promoOver := hold 16 r.promoOver d.2.2.1 })

/-- The tile of a slot as an engine reads it, errors met (R93). -/
def readTile (s : State) (k r i : Nat) (fl : Flaws) : Tile × State :=
  let g := ((s.core k).ring r).geom
  let s1 := meetTile s k fl (g.line i) g.slotLines
  ((s1.core k).tile r i, s1)

/-- The bank of an array whose load is the earliest in progress. -/
def Arr.landing (a : Arr) : Option Nat :=
  match a.b0.st, a.b1.st with
  | .loading, .loading => some (if a.b0.seq ≤ a.b1.seq then 0 else 1)
  | .loading, _ => some 0
  | _, .loading => some 1
  | _, _ => none

/-- R85, R111: the last row and the last header have landed; the bank is LOADED and takes the tag of its (first) slot, or
keeps the tag that was saved with it when it is loaded again after a switch. -/
def execOploadLanded (c : CoreId) (a : Nat) (flaws : Flaws) (s : State) : Res :=
  onCore c s (fun k s =>
    let x := arrOf (s.duoOf k) a
    match s.liveOn k, ((s.core k).arr x).landing with
    | some _, some n =>
      let b := ((s.core k).arr x).bank n
      let ss := ((s.core k).ring b.ring).slots
      if b.slots.any (fun i => (nth .empty ss i).st != .valid) then s else
      let rd := b.slots.foldl (fun (p : List Tile × State) i =>
        let (t, s1) := readTile p.2 k b.ring i flaws
        (p.1 ++ [t], if b.back then s1 else countDefects s1 k t)) ([], s)
      let tag := if b.back then b.tag else match b.slots with | i :: _ => (nth .empty ss i).tag | [] => 0
      settleLoads (rd.2.onArr k x (fun y => y.setBank n { b with st := .loaded, tag := tag, tiles := rd.1, back := false })) k
    | _, _ => s)

/-- R84, R85, R99: each named array exchanges its banks; the bank that leaves the active role is retired. -/
def execOpswap (c : CoreId) (s : State) : Res :=
  onCore c s (fun k s =>
    match s.head k .ope 0x41 with
    | none => s
    | some (_, n) =>
      let s1 := (arraysOf (s.duoOf k) (wf n.word 111 108)).foldl (fun (s : State) a =>
        (retireBank s k a ((s.core k).arr a).active).onArr k a (fun x => { x with active := 1 - x.active })) s
      settleLoads (finish s1 k .ope n.seq) k)

/-! ### OPRUN and its beats -/

/-- MODE of an array in an OPRUN (R178): 0 idle, 1 OS, 2 WS, 3 IS. -/
def runMode (w : CmdWord) (a : Nat) : Nat := wf w (105 + 2 * a) (104 + 2 * a)

/-- The arrays that take part in a run. -/
def runArrs (duo : Bool) (w : CmdWord) : List Nat :=
  (if duo then [0, 2] else List.range 4).filter (fun a => runMode w a != 0)

/-- Whether a run on an array has not retired (R96, R99). -/
def Core.runOn (c : Core) (duo : Bool) (a : Nat) : Bool :=
  c.cx.ope.q.any (fun n => n.st == .begun && opcode n.word == 0x42 && (runArrs duo n.word).contains a)

/-- R97, R99, R144: a run starts; ZERO clears the accumulator tiles and flags it names, once earlier runs on them have
retired. -/
def execOprun (c : CoreId) (s : State) : Res :=
  onCore c s (fun k s =>
    match s.head k .ope 0x42 with
    | none => s
    | some (_, n) =>
      let duo := s.duoOf k
      let named := arraysOf duo (wf n.word 85 82)
      let zs := named.flatMap (physArrs duo)
      let r := wf n.word 91 87
      let cause := ((s.core k).ring r).opeCause
      if cause ≠ 0 then stopUnit s k .ope cause n.idx n.word
      else if named.any ((s.core k).runOn duo) then s
      else
        (begin_ s k .ope n).onCx k (fun x => { x with
          arrs := x.arrs.zipIdx.map (fun p =>
            let y := if zs.contains p.2 then { p.1 with cells := [], flags := .none } else p.1
            if (runArrs duo n.word).contains p.2 then { y with isMode := runMode n.word p.2 == 3 } else y)
          run := some ⟨n.seq, 0, 0, 0, []⟩ }))

/-- Element j of broadcast step t of a slot's tile (R178: axis 0 along rows, 1 along columns). -/
def Tile.lane (t : Tile) (axis : Bool) (step j : Nat) : Elem := if axis then t.elem j step else t.elem step j

/-- Element (r, c) of a bank half as its array sees it. -/
def Bank.elem (b : Bank) (half r c : Nat) : Elem :=
  match b.tiles[half]? with
  | some t => t.lane b.axis r c
  | none => ⟨.zero, none, .held, false⟩

/-- Rows and columns of a bank half within the shape (R109). -/
def Bank.shape (b : Bank) (half : Nat) : Nat × Nat :=
  match b.tiles[half]? with
  | some t => if b.axis then (t.cols, t.rows) else (t.rows, t.cols)
  | none => (0, 0)

/-- Four times the steps that a beat may take (R86, R87): the least over the blocks of the broadcast step and of the
active banks that the step reads. -/
def stepRate (t : Tile) (axis : Bool) (step rt : Nat) (bs : List (Nat × Bank)) : Nat :=
  let lanes := (List.range 128).map (fun j => if axis then t.steps4 j step else t.steps4 step j)
  let banks := bs.flatMap (fun p => p.2.tiles.flatMap (fun u =>
    if p.1 = 1 then (List.range 128).map (fun j => if p.2.axis then u.steps4 j (rt % 128) else u.steps4 (rt % 128) j)
    else (List.range 16384).map (fun i => u.steps4 (i / 128) (i % 128))))
  (lanes ++ banks).foldl Nat.min 16

/-- Steps of the next beat: the most whose least rate allows them, within the slot and the run; 0 for one quarter of a
step of a 16-bit format (R87). -/
def beatSteps (rate : Nat → Nat) (top : Nat) : Nat :=
  let fits := fun (m : Nat) => (List.range m).all (fun i => decide (4 * m ≤ rate i))
  ((List.range' 1 (Nat.min 4 top)).reverse.find? fits).getD 0

/-- What an array's share of a beat makes: cells, flags, sums in flight, escape counts. -/
structure BeatAcc where
  arrs : List Arr
  flights : List Flight
  taken : Nat
  ovr : Nat
  deriving DecidableEq, Repr

/-- Change cells of one physical array, given in rising order; `own` keeps the flags. -/
def BeatAcc.cells (z : BeatAcc) (p own : Nat) (us : List (Nat × (Cell → Cell × TileFlags))) : BeatAcc :=
  let r := updMany .zero (nth .empty z.arrs p).cells us
  { z with arrs := modNth (modNth z.arrs p (fun a => { a with cells := r.1 })) own (fun a => { a with flags := r.2.foldl TileFlags.or a.flags }) }

/-- Set TAINT (R151, R153). -/
def BeatAcc.taint (z : BeatAcc) (own : Nat) (t : Bool) : BeatAcc :=
  if t then { z with arrs := modNth z.arrs own (fun a => { a with flags := { a.flags with taint := true } }) } else z

def BeatAcc.escs (z : BeatAcc) (ps : List (Elem × Elem)) : BeatAcc :=
  ps.foldl (fun (z : BeatAcc) q => let n := escCounts q.1 q.2
    { z with taken := z.taken + n.1, ovr := z.ovr + n.2 }) z

/-- One step on one physical array (R95, R96, R106, R109, R147, R148): mode, broadcast vector with its extent and whether
its step lies within the shape, step number t of the run, bank half. -/
def stepOn (z : BeatAcc) (mode own p half seq : Nat) (b : Bank) (v : List Elem) (lanes : Nat) (inside : Bool) (t : Nat) : BeatAcc :=
  let zero : Elem := ⟨.zero, none, .held, false⟩
  let at_ := t % 128
  let (br, bc) := b.shape half
  let all := List.range 128
  if mode = 1 then
    let row := all.map (fun c => b.elem half at_ c)
    let z1 := z.taint own (v.any Elem.taint || row.any Elem.taint)
    let pairs := (v.take lanes).zipIdx.flatMap (fun x => (row.take bc).zipIdx.map (fun y => (x.2 * 128 + y.2, x.1, y.1)))
    (z1.cells p own (pairs.map (fun q => (q.1, fun u => addAll u (products q.2.1 q.2.2))))).escs (pairs.map Prod.snd)
  else
    let el := fun (r c : Nat) => b.elem half r c
    let z1 := z.taint own (v.any Elem.taint || all.any (fun r => all.any (fun c => (el r c).taint)))
    let lines := if mode = 2 then List.range bc else List.range br
    let pairs := fun (i : Nat) => all.map (fun j => if mode = 2 then (nth zero v j, el j i) else (el i j, nth zero v j))
    let sums := lines.map (fun i => addAll .zero ((pairs i).flatMap (fun q => products q.1 q.2)) |>.1)
    let z2 := lines.foldl (fun (z : BeatAcc) i => z.escs (pairs i)) z1
    if inside then { z2 with flights := z2.flights ++ [⟨p, mode == 2, at_, sums, seq⟩] } else z2

/-- The end of a run whose steps have all issued: the next command may begin; the run retires when its last sum has
landed (R96, R99). -/
def settleRun (s : State) (k seq : Nat) : State :=
  let c := s.core k
  let issuing := match c.cx.run with | some r => r.seq == seq | none => false
  if issuing || c.cx.flights.any (fun f => f.seq == seq) then s else finish s k .ope seq

/-- The arrays whose tag differs from the beat's (R103, R104). -/
def mismatched (c : Core) (as : List Nat) (tag : Nat) : List Nat :=
  as.filter (fun a => (c.arr a).act.st != .loaded || (c.arr a).act.tag != tag)

/-- R104: the OPE halts; each mismatching array raises BEAT_SKEW; CORE.OPE.SKEW captures the first. -/
def skewHalt (s : State) (k idx beat tag : Nat) (bad : List Nat) : State :=
  let c := s.core k
  let pend := fun (a : Nat) => (c.arr a).act.st != .loaded
  let s1 := match bad with
    | [] => s
    | a :: rest => if c.hw.regs.skew.valid then s else
      s.regs k (fun r => { r with skew := ⟨true, !rest.isEmpty, pend a, a, (c.arr a).act.tag, tag, beat⟩ })
  let s2 := s1.onCx k (fun x => { x with halted := true, haltArr := bad })
  bad.foldl (fun (s : State) a => report s (coreFault s k 1 2 1 beat
    (a * 2 ^ 18 + b2n (pend a) * 2 ^ 16 + (c.arr a).act.tag * 2 ^ 8 + tag) idx)) s2

/-- The slot that the next step of a broadcast ring comes from, taken when the ring has none open (R237). -/
def bcastSlot (s : State) (k r : Nat) : Option (Nat × Nat × State) :=
  match look (s.core k).cx.bpos r with
  | some (i, n) => some (i, n, s)
  | none =>
    match ((s.core k).ring r).ready with
    | some (i, _) => some (i, 0, (takeSlot s k r).onCx k (fun x => { x with bpos := put x.bpos r (i, 0) }))
    | none => none

/-- Steps of a beat on every array whose tag matched. DESIGN CHOICE: ESCAPES.TAKEN holds at 2^48 − 1 (log 68). -/
def beatWork (s : State) (k : Nat) (duo : Bool) (n : QEntry) (run : Run) (t : Tile) (taken m : Nat) (good : List Nat) : State :=
  let c := s.core k
  let axis := bit n.word.toNat 86
  let z := (List.range m).foldl (fun (z : BeatAcc) i =>
    let v := (List.range 128).map (fun j => t.lane axis (taken + i) j)
    let lanes := Nat.min 128 (if axis then t.rows else t.cols)
    let inside := decide (taken + i < (if axis then t.cols else t.rows))
    good.foldl (fun (z : BeatAcc) a =>
      (physArrs duo a).foldl (fun (z : BeatAcc) p =>
        stepOn z (runMode n.word a) a p (p - a) n.seq (c.arr a).act v lanes inside (run.step + i)) z) z)
    ⟨c.cx.arrs, c.cx.flights, 0, 0⟩
  (s.onCx k (fun x => { x with arrs := z.arrs, flights := z.flights })).regs k (fun r => { r with
    escTaken := Nat.min (2 ^ 48 - 1) (r.escTaken + z.taken), escOver := hold 16 r.escOver z.ovr })

/-- A beat uses its arrays: WORK_BEATS counts it and their cover windows start anew (R58, R66). -/
def workBeat (s : State) (k : Nat) (ps : List Nat) : State :=
  if ps.isEmpty then s else
  (s.regs k (fun r => { r with workBeats := r.workBeats + 1 })).onHw k (fun h =>
    { h with
      cover := ps.foldl (fun (l : List (CoverSt × Nat)) p => modNth l p (fun _ => (.work, 0))) h.cover
      beats := ps.foldl (fun (l : List (Nat × Nat)) p => modNth l p (fun b => (b.1 + 1, b.2))) h.beats })

/-- A load that the queue holds before a run lands no later than the moment at which the run has issued as many steps as
the tile has rows, or columns when read along columns (R101): whether one has still to land for `n` steps. -/
def Core.owesLoad (c : Core) (seq n : Nat) : Bool :=
  c.cx.arrs.any (fun a => [a.b0, a.b1].any (fun b => b.st == .loading && decide (b.seq < seq) && b.slots.any (fun i =>
    let y := nth .empty (c.ring b.ring).slots i
    decide ((if b.axis then y.cols else y.rows) ≤ n))))

/-- One beat of the run in progress (R87, R95, R103, R104, R149). The run waits while its broadcast slot is not VALID and
while banks are loaded again after a switch (R111); a beat does not come before a load that R101 has land first. -/
def execBeat (c : CoreId) (flaws : Flaws) (s : State) : Res :=
  onCore c s (fun k s =>
    let co := s.core k
    match s.liveOn k, co.cx.run with
    | some _, some run =>
      match co.cx.ope.q.find? (fun n => n.seq == run.seq) with
      | none => s
      | some n =>
        if co.cx.halted || co.cx.ope.stopped || (s.die (k / 68)).adm == 0 || co.cx.arrs.any (fun a => a.b0.back || a.b1.back) then s else
        let r := wf n.word 91 87
        let axis := bit n.word.toNat 86
        let total := cnt 4096 (wf n.word 103 92)
        match bcastSlot s k r with
        | none => lateSlot s k r
        | some (i, taken, s1) =>
          if !co.takes r i then stopUnit s k .ope 3 n.idx n.word else
          let (t, s2) := readTile s1 k r i flaws
          let s3 := if run.seen.contains i then s2 else countDefects s2 k t
          let duo := s.duoOf k
          let as := runArrs duo n.word
          let tag := (nth .empty ((s3.core k).ring r).slots i).tag
          let bad := mismatched (s3.core k) as tag
          let good := as.filter (fun a => !bad.contains a)
          let banks := as.map (fun a => (runMode n.word a, (co.arr a).act))
          let m := beatSteps (fun j => stepRate t axis (taken + j) (run.step + j) banks)
            (Nat.min (total - run.step) (128 - taken))
          -- a beat of quarters adds its product in the fourth (R149)
          let steps := if m = 0 then (if run.quarter = 3 then 1 else 0) else m
          if co.owesLoad n.seq (run.step + steps) then s else
          let s4 := beatWork s3 k duo n run t taken steps good
          let s5 := (workBeat s4 k (as.flatMap (physArrs duo))).progress k 1
          if !bad.isEmpty then skewHalt s5 k n.idx run.beat tag bad else
          let used := taken + steps
          let freed := decide (128 ≤ used) && !bit n.word.toNat 81
          let run1 := { run with
            step := run.step + steps, beat := run.beat + 1, quarter := if m = 0 then (run.quarter + 1) % 4 else 0
            seen := (if run.seen.contains i then run.seen else run.seen ++ [i]).filter (fun j => !freed || j != i) }
          let s6 := if used < 128 then s5.onCx k (fun x => { x with bpos := put x.bpos r (i, used) })
            else
              let x := s5.onCx k (fun x => { x with bpos := del x.bpos r })
              if freed then x.onRing k r (fun y => y.release i) else x
          if run1.step < total then s6.onCx k (fun x => { x with run := some run1 })
          else settleRun (s6.onCx k (fun x => { x with run := none })) k n.seq
    | _, _ => s)

/-- R96, R148: the earliest sum in flight on a physical array lands in its accumulator row or column. -/
def landSum (s : State) (k a : Nat) : State :=
  match (s.core k).cx.flights.find? (fun f => f.arr == a) with
  | some f =>
    let own := arrOf (s.duoOf k) a
    let z := f.sums.zipIdx.foldl (fun (z : SMap Cell × TileFlags) p =>
      let i := if f.isRow then f.at_ * 128 + p.2 else p.2 * 128 + f.at_
      let (u, g) := landOn (get .zero z.1 i) p.1
      (put z.1 i u, z.2.or g)) (((s.core k).arr a).cells, ((s.core k).arr own).flags)
    settleRun (((s.onArr k a (fun x => { x with cells := z.1 })).onArr k own (fun x => { x with flags := z.2 })).onCx k
      (fun x => { x with flights := x.flights.erase f })) k f.seq
  | none => s

/-- R96, R148. No sum lands in a halted cluster (R56). -/
def execPartialSumLanded (c : CoreId) (a : Nat) (s : State) : Res :=
  onCore c s (fun k s => if (s.core k).ctx.isSome ∧ !s.haltedAt k then landSum s k a else s)

/-! ### ACCREAD -/

/-- Rows and columns that an ACCREAD of an array writes (R157). -/
def readShape (duo isMode : Bool) : Nat × Nat := if !duo then (128, 128) else if isMode then (256, 128) else (128, 256)

/-- Cell (r, c) of an array, fused or not. -/
def Core.cellAt (c : Core) (a r col : Nat) : Cell :=
  get .zero (c.arr (a + r / 128 + col / 128)).cells (r % 128 * 128 + col % 128)

/-- R154 to R158: the accumulator tile goes into the next free slot of the output ring; nothing in the array changes. -/
def execAccread (c : CoreId) (s : State) : Res :=
  onCore c s (fun k s =>
    match s.head k .ope 0x43 with
    | none => s
    | some (_, n) =>
      let duo := s.duoOf k
      let a := arrOf duo (wf n.word 111 110)
      let r := wf n.word 109 105
      let fmt := wf n.word 104 100
      let co := s.core k
      let x := co.ring r
      let (rows, cols) := readShape duo (co.arr a).isMode
      if co.runOn duo a then s
      else if !x.fillable .ope then stopUnit s k .ope 5 n.idx n.word
      else if x.geom.slotLines * 64 < slotBytes fmt rows cols 0 0 then stopUnit s k .ope 3 n.idx n.word
      else if !x.tailFree then s
      else
        let outs := (List.range (rows * cols)).map (fun i =>
          readOut fmt (wf n.word 91 90) (sx 8 (wf n.word 99 92)) (co.cellAt a (i / cols) (i % cols)))
        let fl := (co.arr a).flags
        let lines := slotBytes fmt rows cols 0 0 / 64
        let t : Tile := ⟨fmt, rows, cols, false, 0, 0, outs.flatMap (fun o => natLe (elemBytes fmt) o.1),
          if fl.taint then List.range lines else []⟩
        let s1 := (begin_ s k .ope n).onRing k r (fun y => y.claim fmt rows cols false 0 0 .made)
        let s2 := fillSlot s1 k r x.tail t
        let s3 := s2.regs k (fun g => { g with
          accLast := modNth g.accLast a (fun _ => fl.code)
          roSat := hold 16 g.roSat (outs.filter (fun o => o.2 == .sat)).length
          roNonfin := hold 16 g.roNonfin (outs.filter (fun o => o.2 == .nonfin)).length
          roTainted := hold 32 g.roTainted (b2n fl.taint) })
        finish s3 k .ope n.seq)

end Sys2Proof.Machine
end

