-- ==== Sys2Proof/Machine/Vector.lean ====
section
/-! DEFINITION. The vector engine (chapters 04, 06 and 11): element-wise commands, conversions, reductions, row
operations, the optimiser step; issues and the issue distance (R202, R203). Each command of a row writes one output slot
of the command at the head of the VE's queue, and begins it first when it has not begun. -/

set_option autoImplicit false

namespace Sys2Proof.Machine

/-! ### Fields (R180) -/

/-- ROUND of a command. -/
def veRound (w : CmdWord) : Nat :=
  match opcode w with
  | 0x81 => wf w 74 73
  | 0x82 => wf w 55 54
  | 0x83 => wf w 73 72
  | 0x84 => wf w 71 70
  | 0x85 => wf w 15 14
  | 0x86 => wf w 59 58
  | 0x87 => wf w 59 58
  | 0x89 => wf w 46 45
  | 0x8A => wf w 79 78
  | 0x8B => wf w 79 78
  | 0x8C => wf w 58 57
  | _ => 0

/-- CENSUS of a command, 0 for none. -/
def veCensus (w : CmdWord) : Nat := if opcode w = 0x81 ∨ opcode w = 0x82 then addr6 (wf w 51 6) else 0

/-- The commands that work on row blocks (R327). -/
def rowBlock (w : CmdWord) : Bool := opcode w == 0x89 || opcode w == 0x8A || opcode w == 0x8C

/-- How a command writes its output (R132, R180, R533). -/
def veParams (w : CmdWord) (fmt : Nat) : QuantParams :=
  if opcode w = 0x82 then
    ⟨fmt, bit w.toNat 74, wf w 73 68 + 1, (if wf w 67 64 = 1 then 2 else wf w 67 64), Nat.min 64 (wf w 63 57), bit w.toNat 56, veRound w⟩
  else QuantParams.dflt fmt (veRound w)

/-! ### Beginning a command -/

/-- A ring of partial records (R342). -/
def Ring.partialRec (x : Ring) : Bool :=
  x.geom.prod == 2 && x.geom.cons == 2 && x.geom.slotLines == 1040 &&
    (match x.bound with | some b => b.desc.fmt == 0 | none => false)

def Ring.desc? (x : Ring) : Option Desc := x.bound.map Bound.desc
def Ring.fmt (x : Ring) : Nat := match x.bound with | some b => b.desc.fmt | none => 0

/-- Whether the operands of an ADAMQ keep R345. -/
def adamOk (c : Core) (w : CmdWord) : Bool :=
  match (veSources w ++ [veDst w, veMout w]).map (fun r => (c.ring r).desc?) with
  | [some g, some m, some q, some d, some o] =>
    (g.fmt == 0 || g.fmt == 1) && (m.fmt == 0 || m.fmt == 1) && q.fmt == 0x0A && o.fmt == 0x0A && d.fmt == m.fmt
      && !q.axis && !o.axis && g.dim0 == 64 && m.dim0 == 64 && d.dim0 == 64 && q.dim0 == 128 && o.dim0 == 128
      && [m, q, d, o].all (fun x => x.dim1 == g.dim1 && x.orderRows == g.orderRows)
  | _ => false

/-- The most rows of a tile that a ring holds or is to hold, as far as the VE knows them when a command begins: those of its VALID
slots, else those of its descriptor's tiles. -/
def Ring.rowsNext (x : Ring) (n : Nat) : Nat :=
  match x.readyN n with
  | some is => (is.map (fun i => (nth .empty x.slots i).rows)).foldl Nat.max 0
  | none => match x.desc? with | some d => Nat.min 128 d.dim1 | none => 128

/-- Rows of the tiles that a VE command writes (R242): VRED writes one; VLSE those of A or B; any other those of A. -/
def veHeight (c : Core) (w : CmdWord) : Nat :=
  if opcode w = 0x88 then 1 else
  let a := (c.ring (wf w 106 102)).rowsNext (veTiles w)
  if opcode w = 0x8B then Nat.max a ((c.ring (wf w 101 97)).rowsNext (veTiles w))
  else if opcode w = 0x8D then Nat.max a ((c.ring (wf w 101 97)).rowsNext (veTiles w)) else a

/-- Cause 2, 3 or 5 of R174 for a VE command, or 0 (R180, R241, R242, R327, R328, R342, R345, R533). -/
def veCause (c : Core) (w : CmdWord) : Nat :=
  let dst := c.ring (veDst w)
  let o := opcode w
  if (veSources w).any (fun r => !(c.ring r).usable .ve) || !dst.fillable .ve
      || (o == 0x8D && !(c.ring (veMout w)).fillable .ve) then 5
  else if rowBlock w && decide ((c.ring (wf w 106 102)).geom.slots < veTiles w) then 2
  else if o == 0x89 && dst.fmt == 0 && veTiles w != 1 then 2
  else if (o == 0x81 || o == 0x82) && wf w 79 75 != dst.fmt then 3
  else if o == 0x88 && dst.fmt != 0 then 3
  else if o == 0x8B && (!(c.ring (wf w 106 102)).partialRec || !dst.partialRec) then 3
  else if o == 0x8D && !adamOk c w then 3
  else match dst.desc? with
    | none => 5
    | some d =>
      if dst.geom.slotLines < d.slotNeed (veHeight c w) then 3
      else if o == 0x8D && decide ((c.ring (veMout w)).geom.slotLines < Desc.slotNeed { d with fmt := 0x0A } 128) then 3
      else 0

/-- What a VE command finds in memory when it begins (R142, R349): where its census or hyperparameter record lies, and the
hyperparameters. -/
inductive VeMem
  | ok (place : Nat × Nat) (hyper : Bytes) (s : State)
  | stopped (s : State)
  | later
  deriving DecidableEq, Repr

def veMemory (s : State) (k ctx : Nat) (n : QEntry) : VeMem :=
  let w := n.word
  let va := if opcode w = 0x8D then addr6 (wf w 51 6) else veCensus w
  if opcode w ≠ 0x8D ∧ va = 0 then .ok (0, 0) [] s else
  match locate s ctx va .atomic false with
  | .refused kind => .stopped (refuseStop s k .ve va kind)
  | .waits _ _ => .later
  | _ =>
    let c := s.core k
    if opcode w ≠ 0x8D then .ok (placeOf s ctx va) [] (xlTouch s c.die c.cluster ctx va).2 else
    match ctlRead s k .ve va 64 n.idx n.idx with
    | .ok b s1 => .ok (placeOf s ctx va) b s1
    | .stopped s1 => .stopped s1
    | .later => .later

/-- Begin the command at the head of the VE's queue. -/
def veStart (s : State) (k ctx : Nat) (n : QEntry) : State :=
  let cause := veCause (s.core k) n.word
  if cause ≠ 0 then stopUnit s k .ve cause n.idx n.word else
  match veMemory s k ctx n with
  | .stopped s1 => s1
  | .later => s
  | .ok p h s1 => (begin_ s1 k .ve n).onCx k (fun x => { x with veCmd := some ⟨n.seq, 0, p, .zero, (0, 0, 0), h, []⟩ })

/-! ### The tile store under the issue distance (R202, R203) -/

/-- Elements of one issue for the widest format that a command reads or writes (R202). -/
def issueWidth (fmts : List Nat) : Nat :=
  let b := (fmts.map (fun f => (elemFmt f).width)).foldl Nat.max 8
  if 16 < b then 512 else if 8 < b then 1024 else 2048

/-- Elements of the slot that a ring's consumer takes next: a record whole, of a plain tile its rows. -/
def Ring.nextSize (x : Ring) : Nat :=
  match x.ready with
  | some (_, y) => if blockLen y.fmt = 0 then y.rows * (if 128 < y.cols then 256 else 128) else 16384
  | none => 0

/-- Issues of one output slot: those that the largest of its source slots takes. -/
def veIssues (c : Core) (w : CmdWord) : Nat :=
  Nat.max 1 (ceilDiv (((veSources w).map (fun r => (c.ring r).nextSize)).foldl Nat.max 0)
    (issueWidth ((veSources w ++ [veDst w]).map (fun r => (c.ring r).fmt))))

/-- Issue periods from the start of an issue to the landing of its writes, counted in issues (R202): 8, and 4 in check mode, in
which an issue starts every two beats (R203). -/
def landsIn (check : Bool) : Nat := if check then 4 else 8

/-- The writes of other commands that a read of `lines` lines from `line` on, spread over issues `start` to `start + n − 1`, meets
before they have landed, in the order of the read, and the issues by which check mode delays it: a delay moves all of the read
behind it (R203). -/
def hazards (h : CoreHw) (check : Bool) (line lines start n seq : Nat) : List VeWrite × Nat :=
  let ws := h.writes.filter (fun w => decide (line ≤ w.line) && decide (w.line < line + lines) && w.seq != seq)
  if ws.isEmpty then ([], 0) else
  (List.range lines).foldl (fun (a : List VeWrite × Nat) j =>
    match ws.find? (fun w => w.line == line + j) with
    | none => a
    | some w =>
      let t := start + a.2 + j * n / lines
      if t < w.issue + landsIn check then (a.1 ++ [w], if check then a.2 + (w.issue + landsIn check - t) else a.2) else a) ([], 0)

/-- Reads in check mode have hit pending writes (R203): each is counted, the first is captured, and the VE waits until those
writes have landed. -/
def noteHits (s : State) (k : Nat) (hz : List VeWrite) (delay : Nat) : State :=
  match hz with
  | [] => s
  | w :: _ =>
    let cmd := (nth 0 (s.core k).hw.retired 2 + 1) % 2 ^ 24
    (s.regs k (fun g => { g with check :=
      { g.check with
        hits := hold 16 g.check.hits hz.length, valid := true
        cmd := if g.check.valid then g.check.cmd else cmd
        line := if g.check.valid then g.check.line else w.line } })).onHw k (fun h =>
      { h with writes := h.writes.filter (fun x => !hz.contains x), issue := h.issue + delay })

/-- The bytes and poison of lines that a VE command reads over n issues. Outside check mode a line read too early holds its old
or its new contents: a free value decides (R202). In check mode the read waits and returns the new contents (R203). -/
def readUnder (s : State) (k line lines n seq : Nat) (bytes : Bytes) (bad : List Nat) : Bytes × List Nat × State :=
  let c := s.core k
  let hz := hazards c.hw c.cx.check line lines c.hw.issue n seq
  if c.cx.check then (bytes, bad, noteHits s k hz.1 hz.2) else
  hz.1.foldl (fun (p : Bytes × List Nat × State) w =>
    let (v, s2) := p.2.2.fresh
    if v % 2 = 1 then
      let j := w.line - line
      ((patch p.1 (j * 64) w.old).take p.1.length,
       if w.bad then (if p.2.1.contains j then p.2.1 else p.2.1 ++ [j]) else p.2.1.filter (· != j), s2)
    else (p.1, p.2.1, s2)) (bytes, bad, s)

/-- Read a source slot; `count` says that the command reads it for the first time (R130). -/
def veRead (s : State) (k r i n seq : Nat) (count : Bool) (fl : Flaws) : Tile × State :=
  let (t0, s1) := readTile s k r i fl
  let (bs, bad, s2) := readUnder s1 k (((s1.core k).ring r).geom.line i) (Nat.max 1 (ceilDiv t0.bytes.length 64)) n seq t0.bytes t0.bad
  let t := { t0 with bytes := bs, bad := bad }
  if !count then (t, s2) else
  (t, (countDefects s2 k t).regs k (fun g => { g with veEscOver := hold 16 g.veEscOver t.defects.2.2.2 }))

/-- Take the next slot of a source ring, read it and release it (R237, R238). -/
def veTake (s : State) (k r n seq : Nat) (count : Bool) (fl : Flaws) : Tile × State :=
  match ((s.core k).ring r).ready with
  | none => (⟨0, 0, 0, false, 0, 0, [], []⟩, s)
  | some (i, _) =>
    let (t, s1) := veRead s k r i n seq count fl
    (t, (takeSlot s1 k r).onRing k r (fun x => x.release i))

/-- Claim the next slot of an output ring, write a tile into it, and keep the writes that have not landed. `extra` are
bytes and poisoned lines of the statistics of a partial record (R342). -/
def veWrite (s : State) (k r n seq : Nat) (t : Tile) (extra : Bytes × List Nat) : State :=
  let c := s.core k
  let x := c.ring r
  let line := x.geom.line x.tail
  let lines := ceilDiv t.bytes.length 64
  let at_ := fun (j : Nat) => c.hw.issue + j * n / Nat.max 1 lines
  let old := fun (l i : Nat) => (⟨l, Mem.bytes c.hw.tstore (l * 64) 64, get false c.hw.tbad l, i, seq⟩ : VeWrite)
  let stats := if x.partialRec then (List.range 16).map (fun j => line + 1024 + j) else []
  let pend := (List.range lines).map (fun j => old (line + j) (at_ j)) ++ stats.map (fun l => old l (c.hw.issue + (n - 1)))
  let s1 := s.onRing k r (fun x => x.claim t.fmt t.rows t.cols t.axis t.tailCap t.promoCap .made)
  let s2 := fillSlot s1 k r x.tail t
  let s3 := if x.partialRec then
      ((poisonIn s2 k extra.2.length).onHw k (fun h => tsWrite h (line + 1024) (fit 1024 extra.1) extra.2)).onRing k r (fun y => y.onSlot x.tail (fun z =>
        { z with poison := z.poison || !extra.2.isEmpty })) else s2
  let stay := fun (w : VeWrite) => decide (c.hw.issue < w.issue + 8) && !(decide (line ≤ w.line) && decide (w.line < line + lines)) && !stats.contains w.line
  s3.onHw k (fun h => { h with writes := h.writes.filter stay ++ pend.filter (fun w => decide (c.hw.issue + n < w.issue + 8)) })

/-- The slot's issues have started. -/
def veIssue (s : State) (k n : Nat) : State := (s.onHw k (fun h => { h with issue := h.issue + n })).progress k 2

/-! ### Element functions -/

/-- Element of a source under BMODE or CMODE (R180). -/
def Tile.pick (t : Tile) (mode r c : Nat) : Elem :=
  match mode with
  | 0 => t.elem r c
  | 1 => t.elem 0 c
  | 2 => t.elem r 0
  | _ => t.elem 0 0

def bf16Of (v : Nat) : Val := Fmt.bf16.decode v
def f32Of (v : Nat) : Val := ofF32 (BitVec.ofNat 32 v)

/-- y = f(x) of VACT (R324, R325). -/
def actOf (fn : Nat) (slope x : Val) : Val :=
  if x.isNan then .nan else
  match fn with
  | 0 => x
  | 1 => x.max .zero
  | 2 => if x.lt .zero then fl (slope.mul x) else x
  | _ =>
    if x.isFin then step4 fn [x] (actR fn x)
    else match fn, x.sign with
      | 3, false => .one
      | 3, true => .zero
      | 4, false => .one
      | 4, true => Val.one.neg
      | 5, false => .inf false
      | 5, true => .zero
      | _, false => .inf false
      | _, true => Val.zero.neg

/-- f′ of VDACT, from the saved tensor (R324, R325, R326). -/
def dactOf (fn : Nat) (slope y : Val) : Val :=
  if y.isNan then .nan else
  match fn with
  | 1 => if Val.zero.lt y then .one else .zero
  | 2 => if Val.zero.lt y then .one else slope
  | _ => if y.isFin then step4 (16 + fn) [y] (dactR fn y) else if 6 ≤ fn then (if y.sign then .zero else .one) else dactR fn y

/-- One element of an element-wise command, with its taint (R251). -/
def veElem (w : CmdWord) (ts : List Tile) (r c : Nat) : Val × Bool :=
  let z : Tile := ⟨0, 0, 0, false, 0, 0, [], []⟩
  let a := (nth z ts 0).elem r c
  match opcode w with
  | 0x83 =>
    let b := (nth z ts 1).pick (wf w 75 74) r c
    let x := a.true
    let y := b.true
    (match wf w 79 76 with | 0 => x.add y | 1 => x.sub y | 2 => x.mul y | 3 => x.max y | _ => x.min y, a.taint || b.taint)
  | 0x84 =>
    let b := (nth z ts 1).pick (wf w 75 74) r c
    let d := (nth z ts 2).pick (wf w 73 72) r c
    ((a.true.mul b.true).add d.true, a.taint || b.taint || d.taint)
  | 0x85 => ((a.true.mul (f32Of (wf w 79 48))).add (f32Of (wf w 47 16)), a.taint)
  | 0x86 => (actOf (wf w 79 76) (bf16Of (wf w 75 60)) a.true, a.taint)
  | 0x87 =>
    let b := (nth z ts 1).elem r c
    (a.true.mul (dactOf (wf w 79 76) (bf16Of (wf w 75 60)) b.true), a.taint || b.taint)
  | _ => (a.true, a.taint)

/-- VRED over the elements of a row or a column, in order (R533). AMAX compares, and gives, magnitudes. -/
def redOf (fn : Nat) (xs : List Val) : Val :=
  match fn with
  | 0 => xs.foldl fadd .zero
  | 3 => xs.foldl (fun (a : Val) x => fadd a (fl (x.mul x))) .zero
  | _ =>
    match xs.map (fun x => if fn = 2 then x.abs else x) with
    | [] => .zero
    | y :: ys => ys.foldl Val.max y

/-- The results of a VRED: one element for each row or column of the source. -/
def redRow (w : CmdWord) (t : Tile) : List (Val × Bool) :=
  let col := bit w.toNat 75
  let n := if col then t.cols else t.rows
  let m := if col then t.rows else t.cols
  (List.range n).map (fun i =>
    let es := (List.range m).map (fun j => if col then t.elem j i else t.elem i j)
    (redOf (wf w 79 76) (es.map Elem.true), es.any Elem.taint))

/-! ### Row operations (R327 to R330) -/

/-- The statistics of a row as its first read gives them: μ, S and LSE, the elements whose z is not −Inf, whether it holds a
NaN; mean and denominator; Σ g × p. -/
structure RowStat where
  mu : Val
  sum : Val
  lse : Val
  n : Nat
  bad : Bool
  mean : Val
  den : Val
  gp : Val
  deriving DecidableEq, Repr

/-- z of VSOFTMAX at one element (R328). -/
def softZ (w : CmdWord) (a b : Val) : Val :=
  let x := (f32Of (wf w 79 48)).mul a
  stepV 32 4 [f32Of (wf w 79 48), a, b] (x.add b) (x.abs.add b.abs)

/-- μ of a row: its largest finite z. A row with none takes 0 (log 16). -/
def softMu (zs : List Val) : Val :=
  match zs.filter Val.isFin with
  | [] => .zero
  | z :: rest => rest.foldl Val.max z

/-- e^(z − μ) (R328). -/
def softExp (z mu : Val) : Val :=
  let d := stepAdd 33 z mu.neg
  step4 34 [d] (expV d)

/-- The statistics of VSOFTMAX (R328). -/
def softStat (zs : List Val) : RowStat :=
  let mu := softMu zs
  let sum := stepSum 35 (zs.map (fun z => softExp z mu)) 1
  let l := lnV sum
  let ln := stepV 36 4 [sum] l (l.abs.max .one)
  ⟨mu, sum, stepAdd 37 mu ln, (zs.filter (fun z => z != .inf true)).length, zs.any Val.isNan, .zero, .zero, .zero⟩

/-- The statistics of VNORM (R329): RMS, or LAYER with the population variance. -/
def normStat (w : CmdWord) (xs : List Val) : RowStat :=
  let mean := if wf w 79 76 = 1 then stepSum 38 xs xs.length else .zero
  let var := stepSum 41 (xs.map (fun x => let y := stepAdd 39 x mean.neg; step4 40 [y] (y.mul y))) xs.length
  let d := stepAdd 42 var (bf16Of (wf w 75 60))
  ⟨.zero, .zero, .zero, 0, false, mean, step4 43 [d] (rootV d), .zero⟩

/-- The statistics of VSMBACK (R330). -/
def backStat (gs ps : List Val) : RowStat :=
  ⟨.zero, .zero, .zero, 0, false, .zero, .zero, stepSum 47 ((gs.zip ps).map (fun q => step4 46 [q.1, q.2] (q.1.mul q.2))) 1⟩

/-- The statistics of a row of a row block, from its first read (R327). -/
def rowStat (w : CmdWord) (p : BlockRow) : RowStat :=
  let xs := p.a.map ofF32
  match opcode w with
  | 0x89 => softStat (xs.zipIdx.map (fun q => softZ w q.1 (ofF32 (nth 0 p.b q.2))))
  | 0x8C => normStat w xs
  | _ => backStat xs (p.b.map ofF32)

/-- An output element of a row-block command (R328 to R330), from the row's statistics and the elements that the second read
gives: of A, and of B, which is the mask, the gain or p. -/
def rowOut (w : CmdWord) (t : RowStat) (a b : Val) : Val :=
  match opcode w with
  | 0x89 =>
    if t.bad then .nan else if t.n = 0 then .zero else
    let e := softExp (softZ w a b) t.mu
    step4 44 [e, t.sum] (e.div t.sum)
  | 0x8C =>
    let y := stepAdd 39 a t.mean.neg
    let q := step4 44 [y, t.den] (y.div t.den)
    if bit w.toNat 59 then step4 45 [q, b] (q.mul b) else q
  | _ =>
    let d := stepAdd 48 a t.gp.neg
    step4 49 [b, d] (b.mul d)

/-- An output element with its taint: row as first read, statistics, its column in the block, and the elements of the second
read. What a row's statistics take in taints the whole row; a gain taints its own column (R251, R327, R329). -/
def rowElem (w : CmdWord) (p : BlockRow) (t : RowStat) (col : Nat) (a b : Elem) : Val × Bool :=
  (rowOut w t a.true b.true,
   p.aTaint || a.taint || b.taint || (if opcode w = 0x8C then nth false p.bTaint col else p.bTaint.any id))

/-- An element of a row-statistics tile (R328): LSE in column 0, N in column 1. -/
def statElem (p : BlockRow) (t : RowStat) (col : Nat) : Val × Bool :=
  let lse := if t.bad then .nan else if t.n = 0 then .inf true else t.lse
  (if col = 0 then lse else if col = 1 then .fin false t.n 1 else .zero, p.aTaint || p.bTaint.any id)

/-- The rows of a row block, from its column tiles in order (R327). VNORM takes row 0 of each B tile. -/
def blockRows (w : CmdWord) (as bs : List Tile) : List BlockRow :=
  let rows := match as with | t :: _ => t.rows | [] => 0
  (List.range rows).map (fun r =>
    let row := fun (ts : List Tile) (r : Nat) => ts.flatMap (fun t => (List.range t.cols).map (fun c => t.elem r c))
    let a := row as r
    let b := row bs (if opcode w = 0x8C then 0 else r)
    ⟨a.map (fun e => toF32 e.true), b.map (fun e => toF32 e.true), a.any Elem.taint, b.map Elem.taint⟩)

/-- The tiles of the next n slots of a ring, as they stand, read for the row statistics. -/
def peekTiles (s : State) (k r m n seq : Nat) (fl : Flaws) : List Tile × State :=
  ((((s.core k).ring r).readyN m).getD []).foldl (fun (p : List Tile × State) i =>
    let (t, s1) := veRead p.2 k r i n seq true fl
    (p.1 ++ [t], s1)) ([], s)

/-! ### VLSE (R342, R343) -/

/-- Row statistics in the bytes and poisoned lines of their area: LSE, N and poison, by row (R342). -/
def statRows (bs : Bytes) (bad : List Nat) : List (F32 × F32 × Bool) :=
  (List.range 128).map (fun row => (BitVec.ofNat 32 (field bs (8 * row) 4), BitVec.ofNat 32 (field bs (8 * row + 4) 4), bad.contains (row / 8)))

/-- Row statistics of a partial record's slot as they stand. -/
def Core.stats (c : Core) (r i : Nat) : List (F32 × F32 × Bool) :=
  let line := (c.ring r).geom.line i + 1024
  statRows (Mem.bytes c.hw.tstore (line * 64) 1024) (tsBad c.hw line 16)

/-- Row statistics of a partial record's slot as a VE command reads them, under the issue distance (R202). -/
def partStats (s : State) (k r i n seq : Nat) : List (F32 × F32 × Bool) × State :=
  let line := ((s.core k).ring r).geom.line i + 1024
  let (bs, bad, s1) := readUnder s k line 16 n seq (Mem.bytes (s.core k).hw.tstore (line * 64) 1024) (tsBad (s.core k).hw line 16)
  (statRows bs bad, s1)

/-- s of two statistics (R343). -/
def lseSum (a b : Val) : Val :=
  let hi := if a.lt b then b else a
  let lo := if a.lt b then a else b
  let d := stepAdd 50 lo hi.neg
  let l := lnV (Val.one.add (expV d))
  stepAdd 52 hi (stepV 51 8 [d] l (l.abs.max .one))

/-- A weight of R343. -/
def lseWeight (x s : Val) : Val :=
  let d := stepAdd 53 x s.neg
  step4 54 [d] (expV d)

/-- wA × A + wB × B (R343). -/
def lseMix (wA wB a b : Val) : Val := stepAdd 57 (step4 55 [wA, a] (wA.mul a)) (step4 56 [wB, b] (wB.mul b))

/-- The record that a VLSE writes: element function, and statistics by row. -/
def lseRow (st : List (F32 × F32 × Bool)) (a b c : Tile) (r : Nat) : (Nat → Val × Bool) × F32 × F32 × Bool :=
  let (sA, nA, ta) := nth (0, 0, false) st r
  let eS := c.elem r 0
  let eN := c.elem r 1
  let sB := toF32 eS.true
  let tc := eS.taint || eN.taint
  let hasA := Val.zero.lt (ofF32 nA)
  let hasB := Val.zero.lt eN.true
  let t0 := ta || tc
  match hasA, hasB with
  | false, false => (fun _ => (.zero, t0), 0, 0, t0)
  | false, true => (fun j => ((b.elem r j).true, t0 || (b.elem r j).taint), sB, toF32 eN.true, t0)
  | true, false => (fun j => ((a.elem r j).true, t0 || (a.elem r j).taint), sA, nA, t0)
  | true, true =>
    let s := lseSum (ofF32 sA) (ofF32 sB)
    let wA := lseWeight (ofF32 sA) s
    let wB := lseWeight (ofF32 sB) s
    (fun j => (lseMix wA wB (a.elem r j).true (b.elem r j).true, t0 || (a.elem r j).taint || (b.elem r j).taint),
      toF32 s, toF32 ((ofF32 nA).add eN.true), t0)

/-! ### ADAMQ (R345 to R349) -/

/-- The square root in FP32, rounded to nearest even. -/
def sqrtF (v : Val) : Val :=
  match v with
  | .nan => .nan
  | .inf s => if s then .nan else v
  | .fin s n d =>
    if n = 0 then v else if s then .nan else
    let q := n * 2 ^ 300 / d
    let r := Nat.sqrt q
    fl (.fin false (2 * r + b2n (r * r != q || n * 2 ^ 300 % d != 0)) (2 ^ 151))

/-- The unsigned grid of the second moment: a step of 2^−7, held in 8 bits (R347). -/
def Fmt.u8 : Fmt := ⟨8, 0, 255, none, none, 9⟩

def Val.isInfOrNan (v : Val) : Bool := !v.isFin

/-- The new weight and moments of one parameter (R347). -/
def adamStep (h : Bytes) (grad m v w : Val) : Val × Val × Val :=
  let f := fun (o : Nat) => f32Of (field h o 4)
  let mu := fun (a b : Val) => fl (a.mul b)
  let g := mu (f 0x1C) grad
  let m1 := fadd (mu (f 4) m) (mu (fsub .one (f 4)) g)
  let v1 := fadd (mu (f 8) v) (mu (mu (fsub .one (f 8)) g) g)
  let u := fl ((mu m1 (f 0x14)).div (fadd (sqrtF (mu v1 (f 0x18))) (f 0x0C)))
  (fsub w (mu (f 0) (fadd u (mu (f 0x10) w))), m1, v1)

/-- The block's exponent byte from its largest magnitude: at least 1; 0 for a block of zeros; 0xFF for one that holds a
NaN or an infinity (R135; log 20). -/
def momentExp (xs : List Val) (bias : Int) : Nat :=
  if xs.any Val.isInfOrNan then 255
  else if xs.all Val.isZero then 0
  else let (n, d) := ratioOf (amaxOf xs)
       (Max.max 1 (flog2 n d + bias)).toNat

/-- One update block: the skip cause (0 none, 1 SKIPPED, 2 NONFINITE, 3 STATE_POISONED). -/
def adamSkip (g m q : Tile) (r h : Nat) : Nat :=
  let es := (List.range 32).map (fun c => g.elem r (32 * h + c))
  let ar := areas 0x0A 0 0
  let b1 := 4 * r + h
  let b2 := 4 * r + 2 + h
  let eb := elemBytes m.fmt
  if es.any Elem.taint then 1
  else if es.any (fun e => !e.val.isFin) then 2
  else if m.badAt ((r * 128 + 32 * h) * eb) (32 * eb) || q.badAt (b1 * 32) 32 || q.badAt (b2 * 32) 32
      || q.badAt (ar.scale + b1) 1 || q.badAt (ar.scale + b2) 1 then 3
  else 0

/-- The bytes of one update block's new state, and the generators: weights, first moments with scale, second moments
with scale. DESIGN CHOICE (log 68): no rule lists the elements of an all-zero moment block among those that draw nothing, nor
says that they draw, and none of them draws here. -/
def adamBlock (hy : Bytes) (g m q : Tile) (r h : Nat) (gs : Gens) : Bytes × (Bytes × Nat) × (Bytes × Nat) × Gens :=
  let ar := areas 0x0A 0 0
  let b1 := 4 * r + h
  let b2 := 4 * r + 2 + h
  let e1 := q.byteAt (ar.scale + b1)
  let e2 := q.byteAt (ar.scale + b2)
  let wr := wf (BitVec.ofNat 128 (field hy 0x20 4)) 1 0
  let mr := wf (BitVec.ofNat 128 (field hy 0x20 4)) 3 2
  let new := (List.range 32).map (fun c =>
    let col := 32 * h + c
    let n := q.byteAt (b1 * 32 + c)
    let mv := if e1 = 255 then Val.nan else (Fmt.int8.decode n).shift ((e1 : Int) - 127)
    let rt := if e2 = 255 then Val.nan else (Val.fin false (q.byteAt (b2 * 32 + c)) 1).shift ((e2 : Int) - 135)
    adamStep hy (g.elem r col).true (fl mv) (fl (rt.mul rt)) (m.elem r col).true)
  let roots := new.map (fun x => sqrtF x.2.2)
  let x1 := momentExp (new.map (fun x => x.2.1)) 127
  let x2 := momentExp roots 128
  let res := (new.zip roots).zipIdx.foldl (fun (a : Bytes × Bytes × Bytes × Gens) p =>
    let i := 128 * r + 32 * h + p.2
    let ((cw, _), g1) := roundAt (elemFmt m.fmt) wr a.2.2.2 i p.1.1.1
    let ((cm, _), g2) := if x1 = 0 ∨ x1 = 255 then ((0, Outc.plain), g1) else roundAt .int8 mr g1 i (p.1.1.2.1.shift (127 - (x1 : Int)))
    let ((cv, _), g3) := if x2 = 0 ∨ x2 = 255 then ((0, Outc.plain), g2) else roundAt .u8 mr g2 i (p.1.2.shift (128 - (x2 : Int)))
    (a.1 ++ natLe (elemBytes m.fmt) cw, a.2.1 ++ natLe 1 cm, a.2.2.1 ++ natLe 1 cv, g3)) ([], [], [], gs)
  (res.1, (res.2.1, x1), (res.2.2.1, x2), res.2.2.2)

/-- A parameter tile updated: new master weights, new moments, the counts of R348. -/
def adamTile (hy : Bytes) (g m q : Tile) (gs : Gens) : Tile × Tile × (Nat × Nat × Nat) × Gens :=
  let ar := areas 0x0A 0 0
  (List.range (2 * m.rows)).foldl (fun (a : Tile × Tile × (Nat × Nat × Nat) × Gens) i =>
    let r := i / 2
    let h := i % 2
    let n := a.2.2.1
    match adamSkip g m q r h with
    | 0 =>
      let (bw, m1, v1, gs1) := adamBlock hy g m q r h a.2.2.2
      let b1 := 4 * r + h
      let b2 := 4 * r + 2 + h
      let w1 := patch a.1.bytes ((r * 128 + 32 * h) * elemBytes m.fmt) bw
      let q1 := patch (patch a.2.1.bytes (b1 * 32) m1.1) (ar.scale + b1) (natLe 1 m1.2)
      let q2 := patch (patch q1 (b2 * 32) v1.1) (ar.scale + b2) (natLe 1 v1.2)
      ({ a.1 with bytes := w1 }, { a.2.1 with bytes := q2 }, n, gs1)
    | 1 => (a.1, a.2.1, (n.1 + 1, n.2.1, n.2.2), a.2.2.2)
    | 2 => (a.1, a.2.1, (n.1, n.2.1 + 1, n.2.2), a.2.2.2)
    | _ => (a.1, a.2.1, (n.1, n.2.1, n.2.2 + 1), a.2.2.2)) (m, q, (0, 0, 0), gs)

/-! ### One output slot -/

/-- Whether every source slot that the next output needs is VALID: the rings that keep the command waiting. -/
def veLate (c : Core) (w : CmdWord) (first : Bool) : List Nat :=
  let rs := veSources w
  let per := if rowBlock w && first then veTiles w else 1
  (rs.eraseDups).filter (fun r => ((c.ring r).readyN (per * (rs.filter (· == r)).length)).isNone)

/-- The counts that a command adds at retirement, with their place in its record (R142, R348, R349). -/
def VeCmd.adds (v : VeCmd) (w : CmdWord) : List (Nat × Nat) :=
  (if opcode w = 0x8D then [(0x28, v.adam.1), (0x30, v.adam.2.1), (0x38, v.adam.2.2)]
   else if veCensus w = 0 then [] else v.cen.list.zipIdx.map (fun p => (8 * p.2, p.1))).filter (fun p => p.2 != 0)

/-- The command has written its last slot: its counts are added through the translation made when it began, and it retires
(R142, R183, R349). While the record's granule is on its way it waits (R279). -/
def veEnd (s : State) (k ctx : Nat) (n : QEntry) (v : VeCmd) : State :=
  let loc := fun (s : State) (p : Nat × Nat) => objAt s v.place.1 (v.place.2 + p.1) .atomic
  let adds := v.adds n.word
  if adds.any (fun p => match loc s p with | .waits _ _ => true | _ => false) then s else
  let s1 := adds.foldl (fun (s : State) p => putLoc s (loc s p) ⟨ctx, v.place.1, v.place.2 + p.1, .add, natLe 8 p.2, false, (s.core k).cluster⟩) s
  finish (s1.onCx k (fun x => { x with veCmd := none })) k .ve n.seq

/-- Tiles that a command writes into DST (and, for ADAMQ, MOUT), with what else changes in VeCmd. -/
structure VeOut where
  tile : Tile
  extra : Bytes × List Nat
  moments : Option Tile
  cmd : VeCmd
  gens : Gens
  deriving DecidableEq, Repr

/-- The output of one slot, from its source tiles and, for VLSE, the statistics of A's slot. -/
def veCompute (w : CmdWord) (d : Desc) (v : VeCmd) (g : Gens) (ts : List Tile) (st : List (F32 × F32 × Bool)) : VeOut :=
  let z : Tile := ⟨0, 0, 0, false, 0, 0, [], []⟩
  let a := nth z ts 0
  let p := veParams w d.fmt
  let write := fun (rows cols : Nat) (f : Nat → Nat → Val × Bool) => writeTile p d.axis d.tailCap d.promoCap rows cols g f
  let plain := fun (o : TileOut) => (⟨o.tile, ([], []), none, { v with cen := v.cen.add o.cen }, o.gens⟩ : VeOut)
  match opcode w with
  | 0x88 =>
    let rs := redRow w a
    plain (write 1 rs.length (fun _ c => nth (.zero, false) rs c))
  | 0x8B =>
    let b := nth z ts 1
    let c := nth z ts 2
    let rows := Nat.max a.rows b.rows
    let rec_ := (List.range 128).map (fun r => if r < rows then lseRow st a b c r else (fun _ => (.zero, false), 0, 0, false))
    let o := write rows (Nat.max a.cols b.cols) (fun r j => (nth (fun _ => (Val.zero, false), 0, 0, false) rec_ r).1 j)
    let bytes := rec_.flatMap (fun x => natLe 4 x.2.1.toNat ++ natLe 4 x.2.2.1.toNat)
    let bad := (List.range 16).filter (fun l => (List.range 8).any (fun i => (nth (fun _ => (Val.zero, false), 0, 0, false) rec_ (8 * l + i)).2.2.2))
    ⟨o.tile, (bytes, bad), none, v, o.gens⟩
  | 0x8D =>
    let (m, q, n, gs) := adamTile v.hyper a (nth z ts 1) (nth z ts 2) g
    ⟨m, ([], []), some q, { v with adam := (v.adam.1 + n.1, v.adam.2.1 + n.2.1, v.adam.2.2 + n.2.2) }, gs⟩
  | _ =>
    if !rowBlock w then plain (write a.rows a.cols (veElem w ts)) else
    let stats := v.rows.map (rowStat w)
    let row := fun (r : Nat) => nth ⟨[], [], false, []⟩ v.rows r
    let stat := fun (r : Nat) => nth ⟨.zero, .zero, .zero, 0, false, .zero, .zero, .zero⟩ stats r
    if opcode w = 0x89 ∧ d.fmt = 0 then plain (write a.rows 128 (fun r c => statElem (row r) (stat r) c))
    else
      let b := nth z ts 1
      plain (write a.rows a.cols (fun r c =>
        rowElem w (row r) (stat r) (128 * v.tiles + c) (a.elem r c) (b.elem (if opcode w = 0x8C then 0 else r) c)))

/-- Make one output slot of a begun command. -/
def veSlot (s : State) (k ctx : Nat) (n : QEntry) (v : VeCmd) (fl : Flaws) : State :=
  let w := n.word
  let c := s.core k
  let late := veLate c w v.rows.isEmpty
  if veTiles w ≤ v.tiles then veEnd s k ctx n v
  else if !late.isEmpty then late.foldl (fun (s : State) r => lateSlot s k r) s
  else if !(c.ring (veDst w)).tailFree || (opcode w == 0x8D && !(c.ring (veMout w)).tailFree) then s
  else
  match (c.ring (veDst w)).desc? with
  | none => s
  | some d =>
    let m := veIssues c w
    -- the first read of a row block
    let (v1, s1) := if rowBlock w && v.rows.isEmpty then
        let (as, sa) := peekTiles s k (wf w 106 102) (veTiles w) m n.seq fl
        let (bs, sb) := if (veSources w).length = 2 then peekTiles sa k (wf w 101 97) (veTiles w) m n.seq fl else ([], sa)
        ({ v with rows := blockRows w as bs }, veIssue sb k (m * veTiles w))
      else (v, s)
    let (ts, sr) := (veSources w).foldl (fun (p : List Tile × State) r =>
      let (t, s') := veTake p.2 k r m n.seq (!rowBlock w) fl
      (p.1 ++ [t], s')) ([], s1)
    let (st, s2) := match opcode w == 0x8B, (c.ring (wf w 106 102)).ready with
      | true, some (i, _) => partStats sr k (wf w 106 102) i m n.seq
      | _, _ => ([], sr)
    let o := veCompute w d v1 c.cx.gens ts st
    let s3 := veWrite s2 k (veDst w) m n.seq o.tile o.extra
    let s4 := match o.moments with | some q => veWrite s3 k (veMout w) m n.seq q ([], []) | none => s3
    let dn := (o.cmd.adam.1 - v.adam.1, o.cmd.adam.2.1 - v.adam.2.1, o.cmd.adam.2.2 - v.adam.2.2)
    let s5 := (veIssue s4 k m).regs k (fun g => { g with
      trainSkipped := hold 32 g.trainSkipped dn.1, trainNonfin := hold 16 g.trainNonfin dn.2.1
      trainState := hold 16 g.trainState dn.2.2 })
    let v2 := { o.cmd with tiles := v.tiles + 1 }
    let s6 := s5.onCx k (fun x => { x with gens := o.gens, veCmd := some v2 })
    if v2.tiles < veTiles w then s6 else veEnd s6 k ctx n v2

/-- A row of the VE: the command at the head begins when it has not, and writes its next output slot. -/
def veRow (op : Nat) (c : CoreId) (fl : Flaws) (s : State) : Res :=
  onCore c (s.plant (memFlaws fl)) (fun k s =>
    let s1 := match (s.core k).cx.veCmd with
      | some _ => s
      | none => match s.head k .ve op with | some (ctx, n) => veStart s k ctx n | none => s
    match s1.liveOn k, (s1.core k).cx.veCmd with
    | some ctx, some v =>
      match (s1.core k).cx.ve.q.find? (fun n => n.seq == v.seq && opcode n.word == op) with
      | some n => if (s1.core k).cx.ve.stopped then s1 else veSlot s1 k ctx n v (tsFlaws fl)
      | none => s1
    | _, _ => s1)

/-- R202: VPAD starts N issues that read and write nothing. -/
def execVpad (c : CoreId) (s : State) : Res :=
  onCore c s (fun k s =>
    match s.head k .ve 0x80 with
    | none => s
    | some (_, n) => finish (veIssue s k (cnt 4096 (wf n.word 79 68))) k .ve n.seq)

/-- R139, R533. -/
def execVcvt (c : CoreId) (fl : Flaws) (s : State) : Res := veRow 0x81 c fl s
/-- R132 to R137. -/
def execQuant (c : CoreId) (fl : Flaws) (s : State) : Res := veRow 0x82 c fl s
/-- R180, R533. -/
def execVbin (c : CoreId) (fl : Flaws) (s : State) : Res := veRow 0x83 c fl s
/-- R180, R533. -/
def execVfma (c : CoreId) (fl : Flaws) (s : State) : Res := veRow 0x84 c fl s
/-- R180, R533. -/
def execVscale (c : CoreId) (fl : Flaws) (s : State) : Res := veRow 0x85 c fl s
/-- R324, R325. -/
def execVact (c : CoreId) (fl : Flaws) (s : State) : Res := veRow 0x86 c fl s
/-- R324 to R326. -/
def execVdact (c : CoreId) (fl : Flaws) (s : State) : Res := veRow 0x87 c fl s
/-- R533. -/
def execVred (c : CoreId) (fl : Flaws) (s : State) : Res := veRow 0x88 c fl s
/-- R327, R328. -/
def execVsoftmax (c : CoreId) (fl : Flaws) (s : State) : Res := veRow 0x89 c fl s
/-- R330. -/
def execVsmback (c : CoreId) (fl : Flaws) (s : State) : Res := veRow 0x8A c fl s
/-- R342, R343. -/
def execVlse (c : CoreId) (fl : Flaws) (s : State) : Res := veRow 0x8B c fl s
/-- R329. -/
def execVnorm (c : CoreId) (fl : Flaws) (s : State) : Res := veRow 0x8C c fl s
/-- R345 to R349. -/
def execAdamq (c : CoreId) (fl : Flaws) (s : State) : Res := veRow 0x8D c fl s

/-- The source slots that the VE reads next: those of its begun command, or of the command that it may begin. -/
def Core.veReads (c : Core) : List (Nat × Nat) :=
  let w := match c.cx.veCmd with
    | some (v : VeCmd) => (c.cx.ve.q.find? (fun (n : QEntry) => n.seq == v.seq)).map QEntry.word
    | none => c.cx.ve.next.map QEntry.word
  match w with
  | some w => if engineOf w = 2 ∧ 0x80 < opcode w then (veSources w).filterMap (fun r => (c.ring r).ready.map (fun (y : Nat × Slot) => (r, y.1))) else []
  | none => []

/-- R203: in check mode the VE's next command reads a line whose write is pending: the read is counted, the first captured,
and delayed until the write has landed. The read of the slot then finds that line written. -/
def execVeCheckHit (c : CoreId) (line : Nat) (s : State) : Res :=
  onCore c s (fun k s =>
    let x := s.core k
    let reads := x.veReads.any (fun p => let g := (x.ring p.1).geom
      decide (g.line p.2 ≤ line) && decide (line < g.line p.2 + g.slotLines))
    if (s.liveOn k).isSome && x.cx.check && reads then
      let hz := x.hw.writes.filter (fun w => w.line == line && decide (x.hw.issue < w.issue + landsIn true))
      noteHits s k hz ((hz.map (fun w => w.issue + landsIn true - x.hw.issue)).foldl Nat.max 0)
    else s)

end Sys2Proof.Machine
end

