-- ==== Sys2Proof/Machine/Pairs.lean ====
section
/-! DEFINITION. Queue pairs as requesters (R359 to R362, R365 to R371): what goes out of a port, the error state. -/

set_option autoImplicit false

namespace Sys2Proof.Machine

/-- The priority of a traffic class (R359): 0 CONTROL, 1 CNP, 2 RDMA, 3 COLLECTIVE. -/
def Port.prio (x : Port) (cls : Nat) : Nat := bits x.qos (14 - 3 * cls) (12 - 3 * cls)

/-- Whether a port may start a packet of a class (R360). -/
def Port.clear (x : Port) (cls : Nat) : Bool := x.up && get 0 x.paused (x.prio cls) == 0

/-- The number of a queue pair (R366). -/
def Qp.num (q : Qp) (entry : Nat) : Nat := q.gen * 4096 + entry

/-- The live queue pair of a number (R366). -/
def State.qp (s : State) (p qpn : Nat) : Option Qp :=
  match look (s.port p).qps (qpn % 4096) with
  | some q => if q.gen = qpn / 4096 ∧ q.live then some q else none
  | none => none

def State.onQp (s : State) (p qpn : Nat) (f : Qp → Qp) : State :=
  match s.qp p qpn with
  | some q => s.setPort p { s.port p with qps := put (s.port p).qps (qpn % 4096) (f q) }
  | none => s

/-- Count packets of a port (R468). -/
def State.packets (s : State) (p n : Nat) : State := s.setPort p { s.port p with packets := (s.port p).packets + n }

/-! ### Frames (R355, R359 to R361) -/

def v4Mapped (a : Nat) : Bool := a / 2 ^ 32 == 0xFFFF

/-- Whether two addresses share their first bits. -/
def samePrefix (a b len width : Nat) : Bool := a / 2 ^ (width - len) == b / 2 ^ (width - len)

/-- The next hop of a frame (R355): the address itself on the link, else the gateway of its family. -/
def Port.hop (x : Port) (ip : Nat) : Nat :=
  let via := fun (a : Option (Nat × Nat × Nat)) (top : Nat) => match a with
    | some (own, len, gw) => if samePrefix ip own (top + len) 128 then ip else gw
    | none => ip
  if v4Mapped ip then via x.v4 96 else if ip / 2 ^ 118 = 0xFE80 / 64 then ip else via x.v6 0

/-- Whether a port may start a packet of a class to an address: no pause holds it, and its next hop is resolved (R355, R360). -/
def Port.ready (x : Port) (cls ip : Nat) : Bool := x.clear cls && (look x.neigh (x.hop ip)).isSome

/-- A next hop that a frame waits for is asked for once, as soon as the port may send the frame (R355). -/
def Port.ask (x : Port) (cls ip : Nat) : Port :=
  if !x.clear cls || (look x.neigh (x.hop ip)).isSome || x.asked.contains (x.hop ip) then x
  else { x with asked := x.asked ++ [x.hop ip], sent := x.sent ++ [.ask (x.hop ip)] }

/-- Frames that go unprotected on a keyed port (R375). -/
def Out.exempt : Out → Bool
  | .arp _ _ => true
  | .nd _ _ => true
  | .sess _ _ _ _ => true
  | _ => false

/-- The MAC address of port Pn (R354). -/
def macOf (p : Nat) : Nat := (Config.mac + p) % 2 ^ 48

/-- The SCI of a port: its MAC address and port identifier 1 (R374). -/
def sciOf (p : Nat) : Nat := macOf p * 2 ^ 16 + 1

/-- The header of a frame of a class (R356, R359, R361, R375): ECT(0) on RoCEv2 and collective packets; the module's SSCI is 1. -/
def Port.head (x : Port) (p cls ip : Nat) (o : Out) : Head :=
  ⟨get 0 x.neigh (x.hop ip), x.vlan.map (fun v => (v, x.prio cls)), bits x.dscp (29 - 8 * cls) (24 - 8 * cls), cls != 0,
    if o.exempt then none else x.macsec.map (fun k => ⟨sciOf p, x.an, 1, k.sent + 1⟩)⟩

/-- A port frames something; a protected frame takes the next packet number. -/
def Port.framed (x : Port) (p cls ip : Nat) (o : Out) : Port :=
  { x with
    sent := x.sent ++ [.head (x.head p cls ip o)]
    macsec := if o.exempt then x.macsec else x.macsec.map (fun k => { k with sent := k.sent + 1 }) }

/-- A frame leaves a port. -/
def State.carry (s : State) (p cls ip : Nat) (o : Out) : State := (s.setPort p ((s.port p).framed p cls ip o)).emit o

/-- Send a frame of a class other than a queue pair's or a link's own packets: a pause of its priority holds it (R360), and an
unresolved next hop (R355). -/
def portSend (s : State) (p cls ip : Nat) (o : Out) : State :=
  if (s.port p).ready cls ip then (s.carry p cls ip o).packets p 1
  else s.setPort p { (s.port p).ask cls ip with waiting := (s.port p).waiting ++ [(cls, ip, o)] }

/-! ### Priority flow control (R360) -/

/-- Bytes that waiting requests hold of a priority's receive buffer. -/
def Port.occupied (x : Port) (prio : Nat) : Nat :=
  (x.qps.map (fun q => ((q.2.held.filter (fun h => h.2.prio == prio)).map (fun h => h.2.data.length)).sum)).sum

/-- A priority's share of the 16 MiB receive buffer: an eighth (log 33). -/
def bufShare : Nat := 2 * 1048576

def Port.lossless (x : Port) (prio : Nat) : Bool := bit (bits x.qos 23 16) prio

/-- XOFF when a lossless priority holds more than its share less 512 KiB, XON when it falls below half its share. -/
def pfcCheck (s : State) (p prio : Nat) : State :=
  let x := s.port p
  let n := x.occupied prio
  if x.lossless prio && !x.xoff.contains prio && decide (bufShare - 524288 < n) then
    (s.setPort p { x with xoff := x.xoff ++ [prio], pfcTx := hold 16 x.pfcTx 1 }).emit (.pfc p prio 0xFFFF)
  else if x.xoff.contains prio && decide (n < bufShare / 2) then
    (s.setPort p { x with xoff := x.xoff.filter (· != prio) }).emit (.pfc p prio 0)
  else s

/-- Every priority of a port, after requests that it held are gone. -/
def pfcAll (s : State) (p : Nat) : State := (List.range 8).foldl (fun (s : State) i => pfcCheck s p i) s

/-! ### Requesters -/

/-- A packet on the wire, to the far end's queue pair. -/
def SentPkt.wire (x : SentPkt) (p remote : Nat) : Out :=
  if x.send then .send p remote x.data else .write p remote x.psn x.va x.key x.data x.mask x.imm

/-- Queue packets at a queue pair with the next PSNs, and send them when the class may go (R360, R370). In the error
state nothing is queued (R371). -/
def pushPkts (s : State) (p qpn : Nat) (ks : List SentPkt) : State :=
  match s.qp p qpn with
  | none => s
  | some q =>
    if q.error then s else
    let go := (s.port p).ready 2 q.remoteIp && !q.rnrWait
    let ks1 := ks.zipIdx.map (fun (x : SentPkt × Nat) => { x.1 with psn := (q.psnSend + x.2) % 2 ^ 24, onWire := go })
    let s1 := s.onQp p qpn (fun q => { q with psnSend := (q.psnSend + ks.length) % 2 ^ 24, unacked := q.unacked ++ ks1 })
    if go then (ks1.foldl (fun (s : State) x => s.carry p 2 q.remoteIp (x.wire p q.remoteQpn)) s1).packets p ks.length
    else if q.rnrWait then s1 else s1.setPort p ((s1.port p).ask 2 q.remoteIp)

/-- Send every packet of a queue pair from the oldest unacknowledged one (go-back-N). -/
def resend (s : State) (p qpn : Nat) : State :=
  match s.qp p qpn with
  | none => s
  | some q =>
    if (s.port p).ready 2 q.remoteIp then
      let s1 := (q.unacked.foldl (fun (s : State) x => s.carry p 2 q.remoteIp (x.wire p q.remoteQpn)) s).packets p q.unacked.length
      s1.onQp p qpn (fun q => { q with unacked := q.unacked.map (fun x => { x with onWire := true }) })
    else
      let s1 := s.onQp p qpn (fun q => { q with unacked := q.unacked.map (fun x => { x with onWire := false }) })
      s1.setPort p ((s1.port p).ask 2 q.remoteIp)

/-- Packets held back by a pause, a link that was down or an unresolved next hop go out (R355, R360). -/
def flushPort (s : State) (p : Nat) : State :=
  let x := s.port p
  let go := x.waiting.filter (fun w => x.ready w.1 w.2.1)
  let still := x.waiting.filter (fun w => !x.ready w.1 w.2.1)
  let s0 := (go.foldl (fun (s : State) w => s.carry p w.1 w.2.1 w.2.2)
    (s.setPort p { still.foldl (fun (x : Port) w => x.ask w.1 w.2.1) x with waiting := still })).packets p go.length
  let s1 := if (s0.port p).clear 2 then
      (s0.port p).qps.foldl (fun (s : State) e =>
        let late := e.2.unacked.filter (fun x => !x.onWire)
        if late.isEmpty || !e.2.live || e.2.rnrWait then s else
        if !(s.port p).ready 2 e.2.remoteIp then s.setPort p ((s.port p).ask 2 e.2.remoteIp) else
        let t := (late.foldl (fun (s : State) x => s.carry p 2 e.2.remoteIp (x.wire p e.2.remoteQpn)) s).packets p late.length
        t.onQp p (e.2.num e.1) (fun q => { q with unacked := q.unacked.map (fun x => { x with onWire := true }) })) s0
    else s0
  if (s1.port p).clear 3 then
    (s1.port p).colls.foldl (fun (s : State) e =>
      let c := e.2
      let dest := nth ⟨0, 0, 0, false, []⟩ c.members ((c.own + 1) % Nat.max 1 c.m)
      let late := c.unacked.filter (fun x => !x.onWire)
      if late.isEmpty then s else
      if !(s.port p).ready 3 dest.ip then s.setPort p ((s.port p).ask 3 dest.ip) else
      let t := (late.foldl (fun (s : State) x => s.carry p 3 dest.ip (.coll p dest.ip dest.udp { x.pkt with sport := (s.port p).udp, dport := dest.udp })) s).packets p late.length
      t.setPort p { t.port p with colls := put (t.port p).colls e.1 { c with unacked := c.unacked.map (fun x => { x with onWire := true }) } }) s1
  else s1

/-- What a port does with a frame that arrives (R374, R375): it takes it; it drops one whose ICV fails or that lacks protection;
one that repeats a packet number or falls behind it (the replay window is 0); or a protected one where it holds no key. `exempt`
says that the frame may come unprotected: ARP, ND, the session protocol. -/
inductive Gate
  | take | icv | replay | unkeyed
  deriving DecidableEq, Repr

def Port.gate (x : Port) (a : Arrival) (exempt : Bool) : Gate :=
  match x.macsec with
  | none => if a.macsec then .unkeyed else .take
  | some k => if a.macsec then (if !a.icvOk then .icv else if a.pn ≤ k.got then .replay else .take) else if exempt then .take else .icv

/-- A port after a frame has reached it: its FEC codewords are counted (R396), a frame dropped for its ICV or its want of
protection too (R375, R396), one protected under a key that the port does not hold as unsupported; a replayed one is dropped and
counted nowhere (DESIGN CHOICE, log 81). -/
def Port.heard (x : Port) (a : Arrival) (exempt : Bool) : Port :=
  let y := { x with fecCorr := hold 32 x.fecCorr a.corr, fecUncorr := hold 16 x.fecUncorr a.uncorr }
  match x.gate a exempt with
  | .take => { y with macsec := if a.macsec then x.macsec.map (fun k => { k with got := a.pn }) else x.macsec }
  | .icv => { y with dIcv := hold 16 x.dIcv 1 }
  | .replay => y
  | .unkeyed => { y with dUnsup := hold 16 x.dUnsup 1 }

/-- A frame from an address tells the link address of its next hop (R355; log 81): frames that waited for it go out. -/
def learn (s : State) (p ip : Nat) (a : Arrival) : State :=
  let x := s.port p
  let h := x.hop ip
  if look x.neigh h = some a.mac.toNat then s
  else flushPort (s.setPort p { x with neigh := put x.neigh h a.mac.toNat, asked := x.asked.filter (· != h) }) p

/-- A frame reaches an up port; `f` goes on with one that it takes. -/
def arrive (s : State) (p : Nat) (a : Arrival) (exempt : Bool) (f : State → State) : State :=
  if !(s.port p).up then s else
  let s1 := s.setPort p ((s.port p).heard a exempt)
  if (s.port p).gate a exempt = .take then f s1 else s1

/-- A LINK fault (R465 class 7). -/
def linkFault (s : State) (p ctx whereAt a b : Nat) : State :=
  report s { Fault64.blank with
    ctx := ctx, cls := 7, sev := 0, die := portDie p, unit := 12, index := p, whereAt := whereAt, a := a, b := b }

/-- The context that a queue pair serves, 0xFFFF for none. -/
def Owner.ctxId : Owner → Nat
  | .ctx c => c
  | _ => 0xFFFF

/-- A TPUT outstanding on a queue pair. -/
def Core.putsOn (c : Core) (p qpn : Nat) : Bool :=
  c.hw.ops.any (fun o => match o.kind with | .put _ _ p' q' => p' == p && q' == qpn && some o.ctx == c.ctx | _ => false)

/-- The TE of a TPUT on a queue pair that it can no longer complete on stops its queue (R214). -/
def haltPuts (s : State) (p qpn : Nat) : State :=
  (keysWhere s.cores (fun _ c => c.putsOn p qpn)).foldl (fun (s : State) k => haltUnit s k .te) s

/-- The error state (R371): operations not yet on the wire are cancelled; a LINK fault names context and handle. -/
def qpError (s : State) (p qpn : Nat) : State :=
  match s.qp p qpn with
  | none => s
  | some q =>
    if q.error then s else
    haltPuts (linkFault (s.onQp p qpn (fun q => { q with error := true, unacked := q.unacked.filter SentPkt.onWire })) p
      q.owner.ctxId q.handle 3 q.remoteQpn) p qpn

/-- The packets of a slot's lines (R370): at most so many lines each; with MARK 1 the mask of poison bits follows; with
MARK 0 the last is a WRITE with immediate. -/
def slotPkts (mark : Bool) (mtu key va core op : Nat) (bytes : Bytes) (bad : List Nat) : List SentPkt :=
  let lines := ceilDiv bytes.length 64
  let per := if mark then Nat.min 63 ((mtu - 8) / 64) else mtu / 64
  let n := Nat.max 1 (ceilDiv lines per)
  (List.range n).map (fun i =>
    let first := i * per
    let m := Nat.min per (lines - first)
    let last := decide (i + 1 = n)
    { psn := 0, core := core, op := op, last := last, onWire := false, send := false, va := (va + first * 64) % 2 ^ 52, key := key
      data := slice bytes (first * 64) (m * 64)
      mask := if mark then (List.range m).map (fun j => bad.contains (first + j)) else []
      imm := if !mark && last then some (b2n (!bad.isEmpty) * 2 ^ 31 + Nat.min 0xFFFF bad.length) else none })

/-- A CNP for a packet marked CE: at most one a queue pair in 50 µs (R361). -/
def cnp (s : State) (p qpn : Nat) (q : Qp) : State :=
  let now := (s.die (portDie p)).time
  if (match q.lastCnpTx with | some t => decide (now < t + 1250) | none => false) then s else
  let s1 := s.onQp p qpn (fun q => { q with lastCnpTx := some now })
  portSend (s1.setPort p { s1.port p with cnpTx := hold 16 (s1.port p).cnpTx 1 }) p 1 q.remoteIp (.cnp p q.remoteQpn)

end Sys2Proof.Machine
end

