-- ==== Sys2Proof/Machine/Rounds.lean ====
section
/-! DEFINITION. The reduction engine of a port (R397 to R409): accumulation over a window, the scale round, the hops of a
round. -/

set_option autoImplicit false

namespace Sys2Proof.Machine

/-! ### Collective contexts and their link -/

def State.coll (s : State) (p i : Nat) : Option Coll := look (s.port p).colls i
def State.onColl (s : State) (p i : Nat) (f : Coll → Coll) : State :=
  match s.coll p i with
  | some c => s.setPort p { s.port p with colls := put (s.port p).colls i (f c) }
  | none => s

/-- Port and index of a context's collective handle (R397). -/
def State.collAt (s : State) (ctx h : Nat) : Option (Nat × Nat) := look (s.ctx ctx).colls h

def Coll.member (c : Coll) (k : Nat) : Member := nth ⟨0, 0, 0, false, []⟩ c.members k
/-- The members that the ring sends to and receives from (R398). -/
def Coll.next (c : Coll) : Nat := (c.own + 1) % c.m
def Coll.prev (c : Coll) : Nat := (c.own + c.m - 1) % c.m

def Coll.bucket (c : Coll) (i : Nat) : Option Bucket := c.buckets[i]?
def State.onBucket (s : State) (p i b : Nat) (f : Bucket → Bucket) : State :=
  s.onColl p i (fun c => { c with buckets := modNth c.buckets b f })

/-- A packet's header from this member to another (R411). -/
def Coll.packet (c : Coll) (dest type : Nat) (payload : Bytes) : CollPkt :=
  { version := 1, type := type, poison := false, ece := false, last := false, job := c.job, member := c.own, inc := c.inc
    destInc := (c.member dest).inc, bucket := 0, round := 0, hop := 0, epoch := 0, chunk := 0, seq := 0
    src := BitVec.ofNat 128 (c.member c.own).ip, sport := 0, dport := 0, ce := false, payload := payload, arr := ⟨0, 0, 0, false, false, 0⟩ }

/-- Send to a member, from the UDP port of the own port's REDUCTION entry to that of the member (R398, R410). -/
def collSend (s : State) (p i dest : Nat) (k : CollPkt) : State :=
  match s.coll p i with
  | none => s
  | some c => portSend s p 3 (c.member dest).ip
      (.coll p (c.member dest).ip (c.member dest).udp { k with sport := (s.port p).udp, dport := (c.member dest).udp })

/-- Send a SCALE or DATA packet along the ring: it takes the next SEQ of the link (R411, R412). -/
def linkSend (s : State) (p i : Nat) (k : CollPkt) : State :=
  match s.coll p i with
  | none => s
  | some c =>
    let dest := c.member c.next
    let go := (s.port p).ready 3 dest.ip
    let k1 := { k with seq := c.sendSeq }
    let s1 := s.onColl p i (fun c => { c with sendSeq := (c.sendSeq + 1) % 2 ^ 32, unacked := c.unacked ++ [⟨k1, false, go⟩] })
    let s2 := if k.poison then s1.setPort p { s1.port p with wPoison := hold 16 (s1.port p).wPoison 1 } else s1
    if go then collSend s2 p i c.next k1 else s2.setPort p ((s2.port p).ask 3 dest.ip)

/-! ### Segments and chunks (R400, R406, R407) -/

def Bucket.per (b : Bucket) (m : Nat) : Nat := b.len / m
/-- Chunks of a segment: 8,192 elements of data, 8,192 exponent bytes of scales, 8,192 bytes of an ALLGATHER tensor. -/
def Bucket.dataChunks (b : Bucket) (m eb : Nat) : Nat := ceilDiv (b.per m * eb) 8192
def Bucket.scaleChunks (b : Bucket) (m : Nat) : Nat := ceilDiv (b.per m / 32) 8192
/-- The segment that a member sends at a hop (R406). -/
def hopSegment (m sender hop : Nat) : Nat := (sender + 2 * m - hop - 1) % m
def Bucket.eb (b : Bucket) : Nat := match b.src with | some d => elemBytes d.1.fmt | none => 1

/-- The exponent byte of a block (R403). -/
def expByte (xs : List Val) : Nat :=
  if xs.any Val.isInfOrNan then 255
  else if xs.all Val.isZero then 0
  else let (n, d) := ratioOf (amaxOf xs)
       Nat.min 254 (Max.max 1 (flog2 n d + 127)).toNat

/-- H of R404. -/
def headroom (m : Nat) : Nat := if m ≤ 1 then 0 else Nat.log2 (m - 1) + 1
/-- The agreed exponent from the largest byte (R404). -/
def agree (m mx : Nat) : Nat := if mx = 255 then 255 else if mx = 0 then 0 else Nat.min 254 (mx + headroom m)

/-- The accumulated pairs of n lines from line l of a bucket's area, 8 to a line, each with the poison of its line (R402). -/
def accPairs (s : State) (ctx acc l n : Nat) : List (Cell × Bool) × State :=
  let (b, bad, s1) := rdVa s (s.home ctx) ctx (acc + 64 * l) (64 * n) false
  ((List.range (8 * n)).map (fun i =>
    (⟨BitVec.ofNat 32 (field b (8 * i) 4), BitVec.ofNat 32 (field b (8 * i + 4) 4)⟩, bad.contains (i / 8))), s1)

/-- A refused access of a collective context (R265): it is not made, a HANG follows, and what it belongs to never completes. -/
def collRefused (s : State) (ctx va n : Nat) (a : Acc) : Option State :=
  match locateRun s ctx va n a false with
  | some (v, .refused kind) => some (refuseUnit s (ctx / 1024) (s.home ctx) ctx 0xFF v kind)
  | _ => none

/-! ### Sending -/

/-- Send a chunk of exponent bytes at a hop. -/
def sendScale (s : State) (p i b hop chunk : Nat) (bytes : Bytes) (last : Bool) : State :=
  match s.coll p i with
  | none => s
  | some c =>
    match c.bucket b with
    | none => s
    | some x => linkSend s p i { c.packet c.next 1 bytes with
        last := last, bucket := x.num, round := x.round - 1, hop := hop, epoch := x.epoch, chunk := chunk }

/-- Send a chunk of data at a hop. -/
def sendData (s : State) (p i b hop chunk : Nat) (bytes : Bytes) (poison last : Bool) : State :=
  match s.coll p i with
  | none => s
  | some c =>
    match c.bucket b with
    | none => s
    | some x => linkSend s p i { c.packet c.next 2 bytes with
        poison := poison, last := last, bucket := x.num, round := x.round - 1, hop := hop, epoch := x.epoch, chunk := chunk }

/-- One element of a chunk through the engine of R407, with n_in where the chunk extends another: the byte forwarded,
whether a hold or a received 0x80 counts, the FP32 value n × q or the rounded sum, the generators. -/
structure Hop where
  n : Nat
  held : Nat
  sum : F32
  value : F32
  gens : Gens
  deriving DecidableEq, Repr

/-- The value of a WIRE8 byte under an exponent (R140). -/
def wireVal (e n : Nat) : Val :=
  if e = 0 then .zero else if e = 255 then .nan
  else (Fmt.int8.decode (if n = 128 then 129 else n)).shift ((e : Int) - 127)

def hopElem (sr : Bool) (g : Gens) (e i : Nat) (x : Cell) (nIn : Option Nat) : Hop :=
  let got := match nIn with | some n => if n = 128 then 1 else 0 | none => 0
  if e = 0 then ⟨0, got, 0, 0, g⟩
  else if e = 255 then ⟨0, got, 0x7FC00000#32, 0x7FC00000#32, g⟩
  else
    let v := match nIn with | some n => x.value.add (wireVal e n) | none => x.value
    let ((n, o), g1) := roundAt .int8 (if sr then 2 else 0) g (i % 64) (v.shift (127 - (e : Int)))
    ⟨n, got + b2n (o = .sat), toF32 v, toF32 (wireVal e n), g1⟩

/-- The exponent of element i of a bucket. -/
def Bucket.expOf (b : Bucket) (i : Nat) : Nat := ((b.agreed[i / 32]?).join).getD 0

/-- A chunk's elements: first element, count. -/
def Bucket.span (b : Bucket) (m seg chunk : Nat) : Nat × Nat :=
  (seg * b.per m + chunk * 8192, Nat.min 8192 (b.per m - chunk * 8192))

/-- Pass a chunk of the local accumulation, with what came in, through the engine: bytes to forward, sums, values,
saturations, poison, generators. -/
def hopChunk (cells : List (Cell × Bool)) (b : Bucket) (first : Nat) (nIn : Option Bytes) :
    Bytes × List F32 × List F32 × Nat × Bool × Gens :=
  cells.zipIdx.foldl (fun (a : Bytes × List F32 × List F32 × Nat × Bool × Gens) q =>
    let ((c, t), j) := q
    let h := hopElem b.sr a.2.2.2.2.2 (b.expOf (first + j)) (first + j) c (nIn.map (fun x => (nth 0 x j).toNat))
    (a.1 ++ [BitVec.ofNat 8 h.n], a.2.1 ++ [h.sum], a.2.2.1 ++ [h.value], a.2.2.2.1 + h.held, a.2.2.2.2.1 || t, h.gens))
    ([], [], [], 0, false, b.gens)

/-- A chunk of the local accumulation as read, from its first line on: the pairs, with the poison of their lines (R402). -/
def Bucket.cells (b : Bucket) (s : State) (ctx m seg chunk : Nat) : List (Cell × Bool) × State :=
  let (first, n) := b.span m seg chunk
  let l := first / 8
  let (cs, s1) := accPairs s ctx b.accum l (ceilDiv (first + n) 8 - l)
  ((cs.drop (first - 8 * l)).take n, s1)

/-- A refused read of a chunk's accumulation lines (R265). -/
def Bucket.cellsRefused (b : Bucket) (s : State) (ctx m seg chunk : Nat) : Option State :=
  let (first, n) := b.span m seg chunk
  collRefused s ctx (b.accum + 8 * first) (8 * n) .read

/-- Count saturations (R407). -/
def wireSat (s : State) (p n : Nat) : State := s.setPort p { s.port p with wSat := hold 32 (s.port p).wSat n }

/-- Begin the hops once every exponent is agreed: the chunks of segment k − 1 at hop 0 (R406). -/
def startHops (s : State) (p i b : Nat) : State :=
  match s.coll p i with
  | none => s
  | some c =>
    match c.bucket b with
    | none => s
    | some x =>
      let seg := hopSegment c.m c.own 0
      let n := x.dataChunks c.m 1
      (List.range n).foldl (fun (s : State) ch =>
        let y := ((s.coll p i).bind (·.bucket b)).getD x
        match y.cellsRefused s c.ctx c.m seg ch with
        | some s1 => s1
        | none =>
        let (cells, s) := y.cells s c.ctx c.m seg ch
        let (bytes, _, _, held, t, g) := hopChunk cells y (y.span c.m seg ch).1 none
        sendData ((wireSat s p held).onBucket p i b (fun z => { z with gens := g })) p i b 0 ch bytes t (decide (ch + 1 = n))) s

/-- Begin the scale round (R404, R405): the bytes of segment k − 1 at hop 0. -/
def startScales (s : State) (p i b : Nat) : State :=
  match s.coll p i with
  | none => s
  | some c =>
    match c.bucket b with
    | none => s
    | some x =>
      let seg := hopSegment c.m c.own 0
      let per := x.per c.m / 32
      let n := x.scaleChunks c.m
      (List.range n).foldl (fun (s : State) ch =>
        let bytes := ((x.scales.drop (seg * per + ch * 8192)).take (Nat.min 8192 (per - ch * 8192))).map (BitVec.ofNat 8)
        sendScale s p i b 0 ch bytes (decide (ch + 1 = n))) s

/-- The generators of a round (R407). -/
def roundGens (job num round k : Nat) : Gens :=
  ⟨(job ^^^ (num * 0xC2B2AE35 % 2 ^ 32) ^^^ (round * 0x85EBCA6B % 2 ^ 32) ^^^ (k * 0x27D4EB2F % 2 ^ 32)) % 2 ^ 32, []⟩

/-- Addresses of the elements of a plain tensor in the order of R195: runs of (address, bytes), one for each row. -/
def Desc.rowRuns (d : Desc) (base : Nat) : List (Nat × Nat) :=
  (List.range (d.dim3 * d.dim2 * d.dim1)).map (fun u =>
    let r := u % d.dim1
    let z := u / d.dim1
    (base + 64 * (z / d.dim2 * d.stride3 + z % d.dim2 * d.stride2 + r * d.stride1), d.dim0 * elemBytes d.fmt))

def Desc.count (d : Desc) : Nat := d.dim0 * d.dim1 * d.dim2 * d.dim3

/-- The bytes of a plain tensor in the order of R195, with the poison of each element. -/
def readTensor (s : State) (ctx : Nat) (d : Desc) (base : Nat) : Bytes × List Bool × State :=
  let eb := elemBytes d.fmt
  (d.rowRuns base).foldl (fun (a : Bytes × List Bool × State) r =>
    let (bs, bad, s1) := rdVa a.2.2 (a.2.2.home ctx) ctx r.1 r.2 true
    (a.1 ++ bs, a.2.1 ++ (List.range d.dim0).map (fun c => bad.contains (c * eb / 64)), s1)) ([], [], s)

/-- Whether every result of the kind has been written (R409). -/
def Bucket.allDone (b : Bucket) (m : Nat) : Bool :=
  let per := b.dataChunks m (if b.kind = 2 then b.eb else 1)
  decide ((if b.kind = 1 then per else m * per) ≤ b.wrote.length)

/-- Note a chunk whose results are written; with the last of them the round is complete (R409). -/
def noteWrote (s : State) (p i bi seg chunk : Nat) : State :=
  match s.coll p i with
  | none => s
  | some c => s.onBucket p i bi (fun b =>
      let b1 := { b with wrote := b.wrote ++ [(seg, chunk)] }
      { b1 with complete := b1.allDone c.m })

/-- Write the results of a chunk, every line poisoned or none (R408), and note it. A member that takes part in a round again
writes none (R421); a refused write is not made, and its round never completes (R265). -/
def putResult (s : State) (p i bi seg chunk va : Nat) (bs : Bytes) (poison : Bool) : State :=
  match s.coll p i with
  | none => s
  | some c =>
    if ((c.bucket bi).map Bucket.redo).getD false then noteWrote s p i bi seg chunk else
    match collRefused s c.ctx va bs.length .write with
    | some s1 => s1
    | none => noteWrote (wrVa s (s.home c.ctx) c.ctx va bs (if poison then List.range (ceilDiv bs.length 64 + 1) else []) false) p i bi seg chunk

/-- An ALLGATHER round's own tensor: written as own segment, and sent from hop M − 1 (R406). -/
def startGather (s : State) (p i b : Nat) : State :=
  match s.coll p i with
  | none => s
  | some c =>
    match (c.bucket b).bind (fun x => x.src.map (fun d => (x, d))) with
    | none => s
    | some (x, d) =>
      let (bytes, bad, s1) := readTensor s c.ctx d.1 d.2
      let eb := elemBytes d.1.fmt
      let n := x.dataChunks c.m eb
      (List.range n).foldl (fun (s : State) ch =>
        let part := slice bytes (ch * 8192) 8192
        let t := ((bad.drop (ch * 8192 / eb)).take (8192 / eb)).any id
        sendData (putResult s p i b c.own ch (x.result + c.own * (x.per c.m * eb) + ch * 8192) part t) p i b (c.m - 1) ch part t
          (decide (ch + 1 = n))) s1

/-- Start a round, or restart one under its own number (R405, R407, R421). -/
def startRound (s : State) (p i b : Nat) (again : Bool) : State :=
  match s.coll p i with
  | none => s
  | some c =>
    match c.bucket b with
    | none => s
    | some x =>
      let r := if again then x.round - 1 else x.round
      let s1 := s.onBucket p i b (fun y => { y with
        stepIn := if again then y.stepIn else 0, round := r + 1, epoch := if y.kind = 2 then y.epoch else (y.epoch + 1) % 65536, active := true
        redo := again && (y.redo || y.complete), complete := false, agreed := List.replicate (y.len / 32) none, wrote := []
        gens := roundGens c.job y.num r c.own, startAt := (s.die (portDie p)).time })
      if x.kind = 2 then startGather s1 p i b else startScales s1 p i b

/-- The exponent bytes of a bucket from its accumulation area (R403). -/
def formScales (s : State) (ctx : Nat) (b : Bucket) : List Nat × State :=
  (List.range (b.len / 32)).foldl (fun (a : List Nat × State) k =>
    let (cs, s1) := accPairs a.2 ctx b.accum (4 * k) 4
    (a.1 ++ [expByte (cs.map (fun c => c.1.value))], s1)) ([], s)

/-- Add a step's gradient into the accumulation area (R401, R402): the first step of a window writes it anew. -/
def accumulate (s : State) (ctx : Nat) (b : Bucket) (d : Desc) (base : Nat) : State :=
  let (bytes, bad, s1) := readTensor s ctx d base
  let eb := elemBytes d.fmt
  (List.range (b.len / 8)).foldl (fun (s : State) l =>
    let (old, s) := if b.stepIn = 0 then (List.replicate 8 (Cell.zero, false), s) else accPairs s ctx b.accum l 1
    let cells := old.zipIdx.map (fun q =>
      let i := 8 * l + q.2
      let g := (elemFmt d.fmt).decode (field bytes (i * eb) eb)
      (if b.stepIn = 0 then (⟨toF32 g, 0⟩ : Cell) else cellAdd q.1.1 g, q.1.2 || nth false bad i))
    let out := cells.flatMap (fun c => natLe 4 c.1.s.toNat ++ natLe 4 c.1.e.toNat)
    wrVa s (s.home ctx) ctx (b.accum + 64 * l) out (if cells.any Prod.snd then [0] else []) false) s1

/-- What TRED's tensor has to be (R401): plain; FP32 or BF16 unless its bucket is gathered; L elements, or L / M. -/
def Desc.gradOf (d : Desc) (c : Coll) (b : Bucket) : Bool :=
  blockLen d.fmt == 0 && (b.kind == 2 || decide (d.fmt ≤ 1)) && d.count == (if b.kind = 2 then b.len / c.m else b.len)

/-- A TRED is taken (R401, R402): its gradient enters the window; the N-th step forms the exponents and starts a round;
an ALLGATHER starts its round at once. -/
def takeTred (s : State) (p i b : Nat) (d : Desc) : State :=
  match s.coll p i with
  | none => s
  | some c =>
    match c.bucket b with
    | none => s
    | some x =>
      if x.kind = 2 then startRound (s.onBucket p i b (fun y => { y with src := some (d, d.base), complete := false })) p i b false
      else
        let s1 := accumulate s c.ctx x d d.base
        if x.stepIn + 1 < x.n then s1.onBucket p i b (fun y => { y with stepIn := y.stepIn + 1 })
        else
          let (sc, s1) := formScales s1 c.ctx x
          let s2 := wrVa s1 (s1.home c.ctx) c.ctx (x.accum + 8 * x.len) (sc.map (BitVec.ofNat 8)) [] false
          startRound (s2.onBucket p i b (fun y => { y with scales := sc, complete := false })) p i b false

/-! ### Control packets and the end of a collective context (R415, R422) -/

/-- Send a control packet to every other member: each takes the next control number for its member (R415). -/
def ctlSend (s : State) (p i type : Nat) : State :=
  match s.coll p i with
  | none => s
  | some c => ((List.range c.m).filter (· != c.own)).foldl (fun (s : State) m =>
      let n := match s.coll p i with | some x => get 0 x.ctlNum m | none => 0
      let s1 := s.onColl p i (fun x => { x with
        ctlNum := put x.ctlNum m (n + 1), ctls := x.ctls ++ [⟨m, type, n, (s.die (portDie p)).time⟩] })
      collSend s1 p i m { c.packet m type [] with seq := n }) s

/-- The DONE word of a completed round rises by 1 by the atomic add of R224 (R409); a round run again by a member that had
completed it raises nothing (R421). A refused add is not made, and the round stays without its signal (R265). -/
def roundDone (s : State) (p i bi : Nat) : State :=
  match s.coll p i with
  | none => s
  | some c => match c.bucket bi with
    | none => s
    | some b =>
      if !b.active || !b.complete then s else
      let s1 := s.onBucket p i bi (fun x => { x with active := false })
      if b.redo then s1 else
      match collRefused s1 c.ctx b.done 8 .atomic with
      | some s2 => s2
      | none =>
        let s2 := (addVa s1 (s1.home c.ctx) c.ctx b.done 1).2
        s2.setPort p { s2.port p with cCompleted := hold 32 (s2.port p).cCompleted 1 }

/-- Rounds that have completed at this member are signalled before anything abandons the rest (R409). -/
def signalRounds (s : State) (p i : Nat) : State :=
  match s.coll p i with
  | none => s
  | some c => (List.range c.buckets.length).foldl (fun (s : State) b => roundDone s p i b) s

/-- A context's TRED operations on a collective context are taken back: their commands wait as begun commands again (R402), and
its handle names nothing (R397). -/
def forgetColl (s : State) (p i : Nat) (c : Coll) : State :=
  let mine := fun (o : TeOp) => match o.kind with | .tred p' i' _ => p' == p && i' == i | _ => false
  let s1 := s.cores.foldl (fun (s : State) e => match e.2.hw.ops.filter mine with
    | [] => s
    | os => s.onC e.1 (fun x => { x with
        hw := { x.hw with ops := x.hw.ops.filter (fun o => !mine o) }
        cx := if x.ctx = some c.ctx then { x.cx with begun := x.cx.begun.map (fun t =>
          if os.any (fun o => o.seq == t.seq && !o.dead) then { t with issuedAll := false, done := 0 } else t) } else x.cx })) s
  let x := s1.ctx c.ctx
  if (look s1.ctxs c.ctx).isSome && look x.colls c.handle == some (p, i) then s1.setCtx c.ctx { x with colls := del x.colls c.handle } else s1

/-- A collective context closes (R422): CLOSED to every member, its rounds abandoned, nothing more sent on the link. -/
def closeColl (s : State) (p i : Nat) : State :=
  match s.coll p i with
  | none => s
  | some c => if c.st = .closed then s else
    forgetColl ((ctlSend (signalRounds s p i) p i 0x12).onColl p i (fun x => { x with
      st := .closed, unacked := [], buckets := x.buckets.map (fun b => { b with active := false, heldUp := false }) })) p i c

end Sys2Proof.Machine
end

