-- ==== Sys2Proof/Machine/Transfer.lean ====
section
/-! DEFINITION. The transfer engine (R181, R184, R198 to R201, R243 to R245, R251 to R259, R263, R265, R401): commands
begin, issue their operations one at a time, and complete with their last one. -/

set_option autoImplicit false

namespace Sys2Proof.Machine

/-! ### Where an operation works -/

/-- A run of a slot: the address (none: nothing there), bytes, offset in the slot, poison of its index line. -/
abbrev SlotRun := Option Nat × Nat × Nat × Bool

/-- Address of a row of a plain tile, or of a tile's record (R195). -/
def Desc.rowVa (d : Desc) (base cur r : Nat) : Nat :=
  let (z3, z2, i, j) := d.at_ cur
  base + 64 * (z3 * d.stride3 + z2 * d.stride2 + (128 * i + r) * d.stride1) + 128 * j * elemBytes d.fmt
def Desc.recVa (d : Desc) (base cur : Nat) : Nat :=
  let (z3, z2, i, j) := d.at_ cur
  base + 64 * (z3 * d.stride3 + z2 * d.stride2) + (i * d.stride1 + j) * (areas d.fmt d.tailCap d.promoCap).stop

/-- The runs of a tile at a walk cursor, for a slot of a shape (R109, R195). -/
def walkRuns (d : Desc) (base cur rows cols : Nat) : List SlotRun :=
  if blockLen d.fmt = 0 then
    let pitch := (if 128 < cols then 256 else 128) * elemBytes d.fmt
    (List.range rows).map (fun r => (some (d.rowVa base cur r), cols * elemBytes d.fmt, r * pitch, false))
  else [(some (d.recVa base cur), (areas d.fmt d.tailCap d.promoCap).stop, 0, false)]

/-- The runs of a slot whose rows, or record, an index names (R199, R200). -/
def gatherRuns (d : Desc) (base col cols : Nat) (rows : List (Option Nat × Bool)) : List SlotRun :=
  if d.unitRec then
    rows.map (fun v => (v.1.map (fun n => base + n * (areas d.fmt d.tailCap d.promoCap).stop),
      (areas d.fmt d.tailCap d.promoCap).stop, 0, v.2))
  else rows.zipIdx.map (fun p =>
    (p.1.1.map (fun n => base + 64 * n * d.stride1 + 128 * col * elemBytes d.fmt), cols * elemBytes d.fmt,
      p.2 * 128 * elemBytes d.fmt, p.1.2))

/-- The runs of a slot by its source. -/
def Source.runs (x : Source) (rows cols : Nat) (ix : List (Option Nat × Bool)) : List SlotRun :=
  match x with
  | .walk d base cur => walkRuns d base cur rows cols
  | .gather d _ base _ _ col => gatherRuns d base col cols ix
  | .made => []

/-! ### Translation of a transfer -/

/-- What translating a transfer finds first: nothing; a refusal; a granule to wait for; a missing cache entry. -/
inductive Probe
  | ok
  | refused (va kind : Nat)
  | waits
  | miss (va : Nat)
  deriving DecidableEq, Repr

/-- One address in each granule that a run touches. -/
def granVas (va n : Nat) : List Nat :=
  if n = 0 then [] else (List.range' (va / 65536) ((va + n - 1) / 65536 + 1 - va / 65536)).map (fun g => Nat.max va (g * 65536))

/-- `got` are the translations that the operation has waited for already; `slot` says that the transfer is of whole slots or
segments (R265). -/
def probeRun (s : State) (d kc ctx va n : Nat) (a : Acc) (slot : Bool) (got : List Nat) : Probe :=
  match locateRun s ctx va n a slot with
  | some (v, .refused kind) => .refused v kind
  | some _ => .waits
  | none => match (granVas va n).find? (fun v => !got.contains v && !xlHit s d kc ctx v) with
    | some v => .miss v
    | none => .ok

def probeAll (s : State) (d kc ctx : Nat) (rs : List (Nat × Nat × Acc)) (slot : Bool) (got : List Nat) : Probe :=
  match (rs.map (fun r => probeRun s d kc ctx r.1 r.2.1 r.2.2 slot got)).find? (fun p => p != .ok) with
  | some p => p
  | none => .ok

/-- The caches take the translations of a transfer (R263), but for those that a fill has brought already. -/
def touchAll (s : State) (d kc ctx : Nat) (rs : List (Nat × Nat × Acc)) (got : List Nat) : State :=
  rs.foldl (fun (s : State) r => ((granVas r.1 r.2.1).filter (fun v => !got.contains v)).foldl (fun (s : State) v =>
    (xlTouch s d kc ctx v).2) s) s

/-- The accesses of slot runs. -/
def runAccs (rs : List SlotRun) (a : Acc) : List (Nat × Nat × Acc) :=
  rs.filterMap (fun r => r.1.map (fun va => (va, r.2.1, a)))

/-! ### Reading and writing slots -/

/-- The tile that a fill brings: bytes in slot order, and poisoned lines (R200, R251). -/
def readRuns (s : State) (kc ctx size : Nat) (rs : List SlotRun) : Bytes × List Nat × State :=
  rs.foldl (fun (a : Bytes × List Nat × State) r =>
    let room := (rs.map (fun q => q.2.2.1)).filter (fun o => decide (r.2.2.1 < o))
    let span := (room.foldl Nat.min size) - r.2.2.1
    let mark := if r.2.2.2 then (List.range (ceilDiv r.2.1 64)).map (r.2.2.1 / 64 + ·) else []
    match r.1 with
    | none => (a.1 ++ zeros span, a.2.1 ++ mark, a.2.2)
    | some va =>
      let (bs, bad, s1) := rdVa a.2.2 kc ctx va r.2.1 true
      (a.1 ++ fit span bs, a.2.1 ++ mark ++ bad.map (r.2.2.1 / 64 + ·), s1)) ([], [], s)

/-- Bytes and poisoned lines of a run in a tile. -/
def Tile.run (t : Tile) (r : SlotRun) : Bytes × List Nat :=
  (slice t.bytes r.2.2.1 r.2.1,
   (t.bad.filter (fun l => decide (r.2.2.1 / 64 ≤ l) && decide (l * 64 < r.2.2.1 + r.2.1))).map (fun l => l - r.2.2.1 / 64))

/-- Atomic adds of the elements of a run (R201): to the values as stored; a line keeps its poison bit. -/
def addRun (s : State) (kc ctx va fmt : Nat) (bs : Bytes) (bad : List Nat) : State :=
  let (old, was, s1) := rdVa s kc ctx va bs.length true
  let f := elemFmt fmt
  let n := elemBytes fmt
  let sum := (List.range (bs.length / n)).flatMap (fun i =>
    natLe n (f.encode .rne ((f.decode (field old (i * n) n)).add (f.decode (field bs (i * n) n)))).1)
  wrVa s1 kc ctx va sum (was ++ bad) true

/-- Writes of a store: each run with its bytes and poison (R251). -/
def storeRuns (s : State) (kc ctx : Nat) (l : List (Nat × Bytes × List Nat)) (add : Option Nat) : State :=
  l.foldl (fun (s : State) r => match add with
    | some f => addRun s kc ctx r.1 f r.2.1 r.2.2
    | none => wrVa s kc ctx r.1 r.2.1 r.2.2 true) s

/-- The runs of a store with what they carry. -/
def storeList (t : Tile) (rs : List SlotRun) : List (Nat × Bytes × List Nat) :=
  rs.filterMap (fun r => r.1.map (fun va => (va, (t.run r).1, (t.run r).2)))

/-! ### Begun commands -/

/-- COUNT (R181). -/
def teCount (w : CmdWord) : Nat := cnt (2 ^ 20) (wf w 106 87)

/-- Whether a begun command is next on its ring (R243, R245). -/
def firstOn (l : List TeCmd) (t : TeCmd) : Bool :=
  match t.ring with
  | none => true
  | some (r, role) => (l.takeWhile (fun u => u.seq != t.seq)).all (fun u =>
      match u.ring with
      | some (r', role') => u.issuedAll || r' != r || !(role == 2 || role' == 2 || role' == role)
      | none => true)

def State.onBegun (s : State) (k seq : Nat) (f : TeCmd → TeCmd) : State :=
  s.onCx k (fun x => { x with begun := x.begun.map (fun t => if t.seq = seq then f t else t) })

/-- A begun RE-ARM on a ring that has not taken effect. -/
def pendArm (l : List TeCmd) (r : Nat) : Option TeCmd :=
  (l.filter (fun t => t.ring == some (r, 2) && !t.issuedAll)).getLast?

/-- Index positions that commands begun after a RE-ARM will take on its ring. -/
def idxAfter (l : List TeCmd) (seq r : Nat) : Nat :=
  (((l.dropWhile (fun t => t.seq != seq)).drop 1).takeWhile (fun t => t.ring != some (r, 2))).foldl (fun (n : Nat) t =>
    if (t.op == 0xC3 || t.op == 0xC4) && (t.ring.map Prod.fst) == some r then n + teCount t.word else n) 0

/-- Commands whose every unit has been claimed and whose operations have all completed are complete (R183). -/
def settleTe (s : State) (k : Nat) : State :=
  (s.core k).cx.begun.foldl (fun (s : State) t =>
    let c := s.core k
    if t.issuedAll && !(c.hw.ops ++ c.cx.stuck).any (fun o => o.seq == t.seq && !o.dead && some o.ctx == c.ctx) then
      finish (s.onCx k (fun x => { x with begun := x.begun.filter (fun u => u.seq != t.seq) })) k .te t.seq
    else s) s

/-- Issue an operation (R257): `all` says that it claims the command's last unit. -/
def issueOp (s : State) (k ctx : Nat) (t : TeCmd) (kind : TeOpKind) (src : Source) (light all : Bool) : State :=
  let s1 := s.onHw k (fun h => { h with ops := h.ops ++ [⟨h.nextOp, ctx, t.seq, kind, src, light, none, [], false, false⟩], nextOp := h.nextOp + 1 })
  let s2 := if light then lightUse s1 k .te else s1
  s2.onBegun k t.seq (fun u => { u with done := u.done + (match kind with | .index _ => 0 | _ => 1), issuedAll := all })

/-! ### Beginning (R174, R181, R194, R198, R199, R241, R242) -/

/-- The descriptor that a ring's next claims will use. -/
def ringDesc (c : Core) (r : Nat) : Option Desc :=
  match pendArm c.cx.begun r with
  | some t => t.d
  | none => (c.ring r).desc?

/-- Equal FORMAT and shape of two tensors (R181). DESIGN CHOICE: a TAIL_CAP or PROMO_CAP that differs is cause 3 too, as records of
two sizes cannot be copied one for one; the spec names FORMAT and shape only (log 80). -/
def Desc.alike (a b : Desc) : Bool :=
  a.fmt == b.fmt && a.dim0 == b.dim0 && a.dim1 == b.dim1 && a.dim2 == b.dim2 && a.dim3 == b.dim3
    && a.tailCap == b.tailCap && a.promoCap == b.promoCap

/-- Put a command among the begun ones. -/
def enter (s : State) (k : Nat) (n : QEntry) (pos : Nat) (d d2 : Option Desc) (all : Bool) : State :=
  (begin_ s k .te n).onCx k (fun x => { x with begun := x.begun ++ [⟨n.seq, n.word, n.idx, 0, all, pos, [], 0, 0, [], d, d2⟩] })

/-- The members of a multicast group as cores (R255). -/
def State.groupCores (s : State) (p g : Nat) : List Nat :=
  let m := get 0 (s.part p).groups g
  ((s.part p).phys.zipIdx.filter (fun x => bit m x.2)).map (fun x => 68 * (p / 8) + x.1)

/-- The walk cursor from which a fill command beginning now will claim: past what the fills begun before it will claim
(R198, R243). -/
def fillCursor (c : Core) (r : Nat) : Nat :=
  let fills := fun (l : List TeCmd) => (l.filter (fun t => t.op == 0xC1 && t.ring.map Prod.fst == some r)).foldl
    (fun (n : Nat) t => n + (teCount t.word - t.done)) 0
  match pendArm c.cx.begun r with
  | some a => fills ((c.cx.begun.dropWhile (fun t => t.seq != a.seq)).drop 1)
  | none => (c.ring r).walk + fills c.cx.begun

/-- Rows of the largest tile that a command fills into its ring (R195, R242). -/
def fillRows (c : Core) (w : CmdWord) (d : Desc) : Nat :=
  if opcode w = 0xC3 then Nat.min 128 (teCount w)
  else if d.dim1 ≤ 128 ∨ d.dim1 % 128 = 0 then Nat.min 128 d.dim1
  else
    let last := fun (j : Nat) => decide (d.dim1 ≤ 128 * ((d.at_ ((fillCursor c (wf w 111 107) + j) % d.tiles)).2.2.1 + 1))
    if (List.range (Nat.min (teCount w) d.tiles)).all last then d.dim1 % 128 else 128

/-- Begin a command that works on a ring; `f` begins it when its ring and descriptor admit it. A member ring of a multicast that
does not match is cause 5, when the tile reaches it (R255). DESIGN CHOICE: the issuing core's own ring of a multicast has PROD MCAST
or TE, and cause 5 follows otherwise; the spec is silent where the issuer is no member (log 80). -/
def onTeRing (s : State) (k : Nat) (n : QEntry) (fill : Bool) (f : Desc → State) : State :=
  let c := s.core k
  let x := c.ring (wf n.word 111 107)
  let mc := opcode n.word == 0xC1 && bit n.word.toNat 86
  match ringDesc c (wf n.word 111 107) with
  | none => stopUnit s k .te 5 n.idx n.word
  | some d =>
    if !x.geom.valid || !(if mc then x.geom.prod == 0 || x.geom.prod == 3 else if fill then x.geom.prod == 3 else x.geom.cons == 3) then
      stopUnit s k .te 5 n.idx n.word
    else if fill && ((if mc then (s.groupCores c.part (wf n.word 85 80)).map (fun m => ((s.core m).ring (wf n.word 111 107)).geom)
        else [x.geom]).any (fun g => decide (g.slotLines < d.slotNeed (fillRows c n.word d)) && (!mc || (g.valid && g.prod == 0)))) then
      stopUnit s k .te 3 n.idx n.word
    else f d

/-- Begin the command at the head of the TE's queue. -/
def teBegin (s : State) (k ctx : Nat) (n : QEntry) : State :=
  let w := n.word
  let bad := fun (s : State) (cause : Nat) => stopUnit s k .te cause n.idx w
  match opcode w with
  | 0xC0 =>
    match readDesc s k .te (wf w 111 100) .tensor n with
    | .stopped s1 => s1
    | .later => s
    | .ok d s1 => match d.ring with
      | none => bad s1 3
      | some r => if !((s1.core k).ring r).geom.valid then bad s1 5 else enter s1 k n 0 (some d) none false
  | 0xC1 => onTeRing s k n true (fun _ => enter s k n 0 none none false)
  | 0xC2 => onTeRing s k n false (fun _ => enter s k n 0 none none false)
  | 0xC5 =>
    match readDesc s k .te (wf w 111 100) .tensor n with
    | .stopped s1 => s1
    | .later => s
    | .ok a s1 =>
      match readDesc s1 k .te (wf w 99 88) .tensor n with
      | .stopped s2 => s2
      | .later => s
      | .ok b s2 => if a.alike b then enter s2 k n 0 (some a) (some b) false else bad s2 3
  | 0xC6 =>
    match readDesc s k .te (wf w 111 100) .tensor n with
    | .stopped s1 => s1
    | .later => s
    | .ok a s1 => enter s1 k n 0 none (some a) false
  | 0xC7 => onTeRing s k n false (fun _ =>
    match readDesc s k .te (wf w 86 75) .remote n with
    | .stopped s1 => s1
    | .later => s
    | .ok d s1 => match look (s1.ctx ctx).qps (d.remote % 65536) with
      | some _ => enter s1 k n 0 (some d) none false
      | none => bad s1 3)
  | 0xC8 =>
    match readDesc s k .te (wf w 87 76) .tensor n with
    | .stopped s1 => s1
    | .later => s
    | .ok d s1 =>
      match s1.collAt ctx (wf w 111 104) with
      | none => enter s1 k n 0 (some d) none false
      | some (p, i) =>
        match (s1.coll p i).bind (fun c => (c.buckets.find? (fun b => b.num == wf w 103 88)).map (fun b => (c, b))) with
        | none => enter s1 k n 0 (some d) none false
        | some (c, b) =>
          if d.gradOf c b then enter s1 k n 0 (some d) none false else bad s1 3
  | _ => onTeRing s k n (opcode w == 0xC3) (fun d =>
    let units := if d.unitRec then blockLen d.fmt ≠ 0 else blockLen d.fmt = 0 ∧ d.dim2 = 1 ∧ d.dim3 = 1
    let adds := opcode w = 0xC4 ∧ bit w.toNat 86 ∧ 1 < d.fmt
    match d.index with
    | none => bad s 3
    | some h =>
      if !(decide units) || decide adds then bad s 3 else
      match readDesc s k .te h .index n with
      | .stopped s1 => s1
      | .later => s
      | .ok ix s1 =>
        let c := s1.core k
        let r := wf w 111 107
        match pendArm c.cx.begun r with
        | some t => enter s1 k n (idxAfter c.cx.begun t.seq r) (some ix) none false
        | none =>
          (enter s1 k n (c.ring r).idx (some ix) none false).onRing k r (fun x => { x with idx := x.idx + teCount w }))

/-! ### Issuing -/

/-- RE-ARM takes effect (R198, R245). -/
def armRing (s : State) (k : Nat) (t : TeCmd) (d : Desc) (r : Nat) : State :=
  let w := t.word
  let h := wf w 111 100
  let after := idxAfter (s.core k).cx.begun t.seq r
  let s1 := s.onRing k r (fun x =>
    let base := match x.bound, bit w.toNat 90 with
      | some b, true => if b.handle = h then b.base + d.layerStride else d.base
      | _, _ => d.base
    { x with bound := some ⟨h, d, base⟩, walk := 0, idx := after, nextTag := if bit w.toNat 91 then wf w 99 92 else d.tagBase })
  settleTe (s1.onBegun k t.seq (fun u => { u with issuedAll := true })) k

/-- Bytes that a TGATHER or TSCATTER moves in all: 256 or less take the light path (R253). -/
def ixLight (d : Desc) (w : CmdWord) : Bool :=
  decide (teCount w * (if d.unitRec then (areas d.fmt d.tailCap d.promoCap).stop else d.dim0 * elemBytes d.fmt) ≤ 256)

/-- Bytes that runs move: 256 or less take the light path (R253). DESIGN CHOICE: a TFILL, TDRAIN or TPUT of several tiles takes it
for none of them, whatever they sum to; R253's first sentence goes by the whole transfer, its second names one tile (log 80). -/
def isLight (one : Bool) (rs : List SlotRun) : Bool := one && decide ((rs.map (fun r => r.2.1)).sum ≤ 256)

/-- What trying to issue gives: the state, and whether anything was issued. -/
abbrev Tried := State × Bool

/-- A multicast fill claims a slot in every member ring together (R255, R256). DESIGN CHOICE: with a GROUP of no members its
operations fill nothing; the spec does not say what they do (log 80). -/
def tryMcast (s : State) (k ctx : Nat) (t : TeCmd) (d : Desc) (base : Nat) : Tried :=
  let r := wf t.word 111 107
  let g := wf t.word 85 80
  let own := (s.core k).ring r
  let ms := s.groupCores (s.core k).part g
  let fits := fun (m : Nat) => let x := (s.core m).ring r
    x.geom.valid && x.geom.prod == 0 && x.geom.group == g
  if ms.any (fun m => !fits m) then (stopUnit s k .te 5 t.idx t.word, true)
  else if ms.any (fun m => !((s.core m).ring r).tailFree) then (s, false)
  else
    let (_, _, i, j) := d.at_ own.walk
    let (rows, cols) := d.shapeAt i j
    let src := Source.walk d base own.walk
    let tag := own.nextTag
    let claimed := ms.map (fun m => (m, ((s.core m).ring r).tail))
    let s1 := ms.foldl (fun (s : State) m => s.onRing m r (fun x =>
      { x with nextTag := tag }.claim d.fmt rows cols d.axis d.tailCap d.promoCap src)) s
    let s2 := s1.onRing k r (fun x => { x with nextTag := (tag + 1) % 256, walk := (x.walk + 1) % d.tiles })
    (issueOp s2 k ctx t (.mcast r claimed none) src (isLight (teCount t.word == 1) (walkRuns d base own.walk rows cols))
      (decide (teCount t.word ≤ t.done + 1)), true)

/-- TFILL: the slot at TAIL of its ring (R236, R198). -/
def tryFill (s : State) (k ctx : Nat) (t : TeCmd) : Tried :=
  let r := wf t.word 111 107
  let x := (s.core k).ring r
  match x.bound with
  | none => (s, false)
  | some b =>
    let d := b.desc
    if bit t.word.toNat 86 then tryMcast s k ctx t d b.base
    else if !x.tailFree then (s, false)
    else
      let (_, _, i, j) := d.at_ x.walk
      let (rows, cols) := d.shapeAt i j
      let src := Source.walk d b.base x.walk
      let s1 := s.onRing k r (fun y => { y.claim d.fmt rows cols d.axis d.tailCap d.promoCap src with walk := (y.walk + 1) % d.tiles })
      (issueOp s1 k ctx t (.fill r x.tail []) src (isLight (teCount t.word == 1) (walkRuns d b.base x.walk rows cols))
        (decide (teCount t.word ≤ t.done + 1)), true)

/-- Index lines of positions, in order (R199). -/
def indexLines (ix : Desc) (pos n : Nat) : List Nat :=
  (((List.range n).filter (fun i => decide (pos + i < ix.dim0))).map (fun i => (ix.base + 4 * (pos + i)) / 64)).eraseDups

/-- Indices that steer a slot, as R200 takes them, with the counts OOB and POISONED. -/
def resolve (ix : Desc) (lines : List (Nat × Bool × List Int)) (pos n limit : Nat) : List (Option Nat × Bool) × Nat × Nat :=
  (List.range n).foldl (fun (a : List (Option Nat × Bool) × Nat × Nat) i =>
    let p := pos + i
    if ix.dim0 ≤ p then (a.1 ++ [(none, false)], a.2.1 + 1, a.2.2) else
    let va := ix.base + 4 * p
    match lines.find? (fun l => l.1 == va / 64) with
    | none => (a.1 ++ [(none, false)], a.2.1, a.2.2)
    | some (_, bad, vs) =>
      let v := nth (-1) vs (va % 64 / 4)
      if bad then (a.1 ++ [(none, true)], a.2.1, a.2.2 + 1)
      else if v = -1 then (a.1 ++ [(none, false)], a.2.1, a.2.2)
      else if v < -1 ∨ (limit : Int) ≤ v then (a.1 ++ [(none, false)], a.2.1 + 1, a.2.2)
      else (a.1 ++ [(some v.toNat, false)], a.2.1, a.2.2)) ([], 0, 0)

/-- The INT32 values of an index line. -/
def indexVals (b : Bytes) : List Int := (List.range 16).map (fun i => sx 32 (field b (4 * i) 4))

/-- Units of a TGATHER or TSCATTER: slots in all; and of a slot: first position, indices, tile column (R199). -/
def ixUnits (d : Desc) (w : CmdWord) : Nat := if d.unitRec then teCount w else ceilDiv (teCount w) 128 * d.tCols
def ixUnit (d : Desc) (w : CmdWord) (u : Nat) : Nat × Nat × Nat :=
  if d.unitRec then (u, 1, 0)
  else (128 * (u / d.tCols), Nat.min 128 (teCount w - 128 * (u / d.tCols)), u % d.tCols)

/-- The index lines of the next slot first; `f` goes on with the indices once their lines have returned. -/
def withIndices (s : State) (k ctx : Nat) (t : TeCmd) (d ix : Desc) (f : State → List (Option Nat × Bool) → Nat → Nat → Nat → Tried) : Tried :=
  let (off, n, col) := ixUnit d t.word t.done
  let pos := t.pos + off
  let need := (indexLines ix pos n).filter (fun l => !t.lines.any (fun x => x.1 == l))
  let out := (s.core k).hw.ops.filterMap (fun o => match o.kind with
    | .index l => if o.seq = t.seq ∧ o.ctx = ctx ∧ !o.dead then some l else none
    | _ => none)
  match need.find? (fun l => !out.contains l) with
  | some l => (issueOp s k ctx t (.index l) .made false false, true)
  | none =>
    if !need.isEmpty then (s, false) else
    let (rows, oob, bad) := resolve ix t.lines pos n (if d.unitRec then d.tiles else d.dim1)
    let count := fun (s : State) => if col = 0 then s.regs k (fun r => { r with
      ixOob := hold 32 r.ixOob oob, ixPoison := hold 32 r.ixPoison bad }) else s
    let (s1, went) := f s rows pos n col
    (if went then count s1 else s1, went)

/-- TGATHER: the next slot (R199, R200). -/
def tryGather (s : State) (k ctx : Nat) (t : TeCmd) (ix : Desc) : Tried :=
  let r := wf t.word 111 107
  match ((s.core k).ring r).bound with
  | none => (s, false)
  | some b =>
    let d := b.desc
    withIndices s k ctx t d ix (fun s rows pos n col =>
      let x := (s.core k).ring r
      if !x.tailFree then (s, false) else
      let (h, w) := if d.unitRec then (128, 128) else (n, Nat.min 128 (d.dim0 - 128 * col))
      let src := Source.gather d ix b.base pos n col
      let s1 := s.onRing k r (fun y => y.claim d.fmt h w d.axis d.tailCap d.promoCap src)
      (issueOp s1 k ctx t (.fill r x.tail rows) src (ixLight d t.word) (decide (ixUnits d t.word ≤ t.done + 1)), true))

/-- A consumer's slot at READ; late where it is not VALID (R237, R249). -/
def consume (s : State) (k r : Nat) (f : Nat → Slot → Desc → Nat → Tried) (t : TeCmd) : Tried :=
  let x := (s.core k).ring r
  match x.bound, x.ready with
  | some b, some (i, y) =>
    if y.fmt ≠ b.desc.fmt then (stopUnit s k .te 3 t.idx t.word, true)
    else f i y b.desc b.base
  | _, _ => (lateSlot s k r, false)

/-- What a store writes of a slot: the rows and columns of the slot that lie within the shape (R109, R195). -/
def storeShape (d : Desc) (y : Slot) (cur : Nat) : Nat × Nat :=
  let (_, _, i, j) := d.at_ cur
  (Nat.min y.rows (d.dim1 - 128 * i), Nat.min y.cols (d.dim0 - 128 * j))

/-- TDRAIN: the slot at READ (R238, R242). -/
def tryDrain (s : State) (k ctx : Nat) (t : TeCmd) : Tried :=
  let r := wf t.word 111 107
  consume s k r (fun i y d base =>
    let cur := ((s.core k).ring r).walk
    let (h, w) := storeShape d y cur
    let s1 := (takeSlot s k r).onRing k r (fun z => { z with walk := (z.walk + 1) % d.tiles })
    (issueOp s1 k ctx t (.store r i) (.walk d base cur) (isLight (teCount t.word == 1) (walkRuns d base cur h w))
      (decide (teCount t.word ≤ t.done + 1)), true)) t

/-- Rows that a scatter without ADD writes: of those that go to one place, a free value chooses one, the same in every tile
column (R201). -/
def oneOf (pick : Nat) (rows : List (Option Nat × Bool)) : List (Option Nat × Bool) :=
  rows.zipIdx.map (fun p => match p.1.1 with
    | none => p.1
    | some v =>
      let at_ := (List.range rows.length).filter (fun j => (nth (none, false) rows j).1 == some v)
      if p.2 = nth 0 at_ (Config.free (pick + nth 0 at_ 0) % at_.length) then p.1 else (none, false))

/-- Whether a scatter's operation of the group of rows at `pos` stores a row in a tile column, where the group `last` has stored that
row there already: a free value ranks the groups for each row, the same in every tile column (R201). -/
def outranks (order row pos : Nat) (last : Option Nat) : Bool :=
  match last with
  | none => true
  | some q => let rank := fun (g : Nat) => Config.rank order row g
    decide (rank q < rank pos) || (rank q == rank pos && decide (q ≤ pos))

/-- Key of a row in a tile column. -/
def landKey (col row : Nat) : Nat := col * 2 ^ 40 + row

/-- The rows that an operation of a scatter without ADD stores, and what has landed after it (R201). -/
def landRows (t : TeCmd) (pos col : Nat) (rows : List (Option Nat × Bool)) : List (Option Nat × Bool) × SMap Nat :=
  (rows.map (fun p => match p.1 with
      | some v => if outranks t.order v pos (look t.landed (landKey col v)) then p else (none, p.2)
      | none => p),
   rows.foldl (fun (m : SMap Nat) p => match p.1 with
      | some v => if outranks t.order v pos (look m (landKey col v)) then put m (landKey col v) pos else m
      | none => m) t.landed)

/-- TSCATTER: the slot at READ (R199 to R201). -/
def tryScatter (s : State) (k ctx : Nat) (t : TeCmd) (ix : Desc) : Tried :=
  let r := wf t.word 111 107
  match ((s.core k).ring r).bound with
  | none => (s, false)
  | some b => withIndices s k ctx t b.desc ix (fun s rows pos n col =>
      consume s k r (fun i _ d base =>
        let add := bit t.word.toNat 86
        let fresh := !add && col == 0
        let pick := if fresh then s.free else t.pick
        let s1 := if fresh then { s.onBegun k t.seq (fun u => { u with
          pick := pick, order := if t.done = 0 then s.free + n else u.order }) with free := s.free + n + b2n (t.done == 0) } else s
        (issueOp (takeSlot s1 k r) k ctx t (.scatter r i (if add then rows else oneOf pick rows) add) (.gather d ix base pos n col)
          (ixLight d t.word) (decide (ixUnits d t.word ≤ t.done + 1)), true)) t)

/-- The contiguous runs of a tensor (R195): rows of a plain one, records of another. -/
def Desc.units (d : Desc) : List (Nat × Nat) :=
  if blockLen d.fmt = 0 then d.rowRuns d.base
  else (List.range d.tiles).map (fun u => (d.recVa d.base u, (areas d.fmt d.tailCap d.promoCap).stop))

/-- Segments of at most 64 KiB (R257); a tensor of 256 bytes or less is one light-path transfer (R253). -/
def Desc.segments (d : Desc) : List (List (Nat × Nat)) :=
  let us := d.units
  if (us.map Prod.snd).sum ≤ 256 then [us]
  else us.flatMap (fun u => (List.range (ceilDiv u.2 65536)).map (fun i => [(u.1 + 65536 * i, Nat.min 65536 (u.2 - 65536 * i))]))

/-- TCOPY and TZERO: the next segment; a TCOPY pairs the tiles of equal coordinates, whatever the ORDERs (R195). -/
def tryCopy (s : State) (k ctx : Nat) (t : TeCmd) : Tried :=
  match t.d2 with
  | none => (s, false)
  | some b0 =>
    let b := match t.d with | some a => { b0 with orderRows := a.orderRows } | none => b0
    let dst := b.segments
    let light := decide ((b.units.map Prod.snd).sum ≤ 256)
    let all := decide (dst.length ≤ t.done + 1)
    match dst[t.done]?, t.d with
    | some l, some a =>
      let src := nth [] a.segments t.done
      (issueOp s k ctx t (.copy ((src.zip l).map (fun p => (p.1.1, p.2.1, p.2.2)))) .made light all, true)
    | some l, none => (issueOp s k ctx t (.zero l) .made light all, true)
    | none, _ => (s, false)

/-- TPUT: the slot at READ goes out as WRITEs (R370). Successive slots lie one after another from BASE, by the ring's
walk cursor (log 24). -/
def tryPut (s : State) (k ctx : Nat) (t : TeCmd) (fl : Flaws) : Tried :=
  let r := wf t.word 111 107
  match t.d with
  | none => (s, false)
  | some rd =>
    match look (s.ctx ctx).qps (rd.remote % 65536) with
    | none => (s, false)
    | some (p, qpn) => consume s k r (fun i _ d _ =>
        let cur := ((s.core k).ring r).walk
        let (tile, s1) := readTile s k r i fl
        let size := pad64 tile.bytes.length
        let id := (s1.core k).hw.nextOp
        let s2 := (takeSlot s1 k r).onRing k r (fun z => { z with walk := (z.walk + 1) % d.tiles })
        let s3 := issueOp s2 k ctx t (.put r i p qpn) .made (isLight (teCount t.word == 1) [(none, size, 0, false)])
          (decide (teCount t.word ≤ t.done + 1))
        let q := s3.qp p qpn
        let s4 := if (q.map Qp.error).getD true then haltUnit s3 k .te else s3
        (pushPkts s4 p qpn (slotPkts ((q.map Qp.mark).getD false) ((q.map Qp.mtu).getD 4096) (bits rd.remote 47 16)
          ((rd.base + cur * size) % 2 ^ 52) k id (fit size tile.bytes) tile.bad), true)) t

/-- The bucket that a TRED may hand its gradient to now: OPEN, and no round of it in flight here (R399, R402). -/
def tredReady (s : State) (ctx : Nat) (w : CmdWord) : Option (Nat × Nat × Nat) :=
  match s.collAt ctx (wf w 111 104) with
  | none => none
  | some (p, i) =>
    match s.coll p i with
    | none => none
    | some c =>
      match (List.range c.buckets.length).find? (fun b => (c.bucket b).any (fun x => x.num == wf w 103 88)) with
      | none => none
      | some b => if c.st = .open_ ∧ !((c.bucket b).any Bucket.active) then some (p, i, b) else none

/-- A fill that a reset aborted waits until the command that claimed its slot claims it again (R480). -/
def TeOp.again (o : TeOp) : Bool :=
  !o.refused && match o.kind with | .fill _ _ _ => true | .mcast _ _ _ => true | _ => false

/-- The slots that an operation of a core fills: core, ring, slot. -/
def TeOp.fillsAt (o : TeOp) (k : Nat) : List (Nat × Nat × Nat) :=
  match o.kind with
  | .fill r i _ => [(k, r, i)]
  | .refill r i _ => [(k, r, i)]
  | .mcast r cores _ => cores.map (fun c => (c.1, r, c.2))
  | _ => []

/-- A begun command claims again the slot of its first fill that a reset aborted, and issues it (R480). -/
def tryAgain (s : State) (k : Nat) (t : TeCmd) : Tried :=
  match (s.core k).cx.stuck.filter (fun o => o.again && o.seq == t.seq) with
  | [] => (s, false)
  | o :: _ =>
    let s1 := (o.fillsAt k).foldl (fun (s : State) x => s.onRing x.1 x.2.1 (fun y => y.onSlot x.2.2 (fun z => { z with st := .filling }))) s
    (s1.onC k (fun c => { c with
      cx := { c.cx with stuck := c.cx.stuck.filter (fun x => x != o) }
      hw := { c.hw with ops := c.hw.ops ++ [{ o with id := c.hw.nextOp }], nextOp := c.hw.nextOp + 1 } }), true)

/-- The fills aborted by a reset that a command issues again, or stands behind on its ring (R480). -/
def cutFills (c : Core) (t : TeCmd) : List TeOp :=
  c.cx.stuck.filter (fun o => o.again && (o.seq == t.seq || t.ring.any (fun r => (o.fillsAt 0).any (fun x => x.2.1 == r.1))))

/-- Issue what a begun command can issue next; behind the fills that a reset aborted on its ring. -/
def tryIssue (s : State) (k ctx : Nat) (t : TeCmd) (fl : Flaws) : Tried :=
  let c := s.core k
  if !(cutFills c t).isEmpty then (if 48 ≤ c.teOps then (s, false) else tryAgain s k t)
  else if t.issuedAll || !firstOn c.cx.begun t then (s, false)
  else if t.op = 0xC0 then
    match t.d with
    | some d => match d.ring with | some r => (armRing s k t d r, true) | none => (s, false)
    | none => (s, false)
  else if 48 ≤ c.teOps then (s, false)
  else match t.op with
    | 0xC1 => tryFill s k ctx t
    | 0xC2 => tryDrain s k ctx t
    | 0xC3 => match t.d with | some ix => tryGather s k ctx t ix | none => (s, false)
    | 0xC4 => match t.d with | some ix => tryScatter s k ctx t ix | none => (s, false)
    | 0xC5 => tryCopy s k ctx t
    | 0xC6 => tryCopy s k ctx t
    | 0xC7 => tryPut s k ctx t fl
    | _ => match tredReady s ctx t.word with
      | some (p, i, b) =>
        let light := match t.d with | some d => decide (d.count * elemBytes d.fmt ≤ 256) | none => false
        let fits := match t.d, s.coll p i with
          | some d, some c => ((c.bucket b).map (d.gradOf c)).getD false
          | _, _ => false
        if fits then (issueOp s k ctx t (.tred p i b) .made light true, true) else (stopUnit s k .te 3 t.idx t.word, true)
      | none => (s, false)

/-- A row of the TE: the command at the head begins when it has the opcode and fewer than 8 are begun; then the first
begun command of the row that can issue an operation issues one (R184). -/
def teRow (op : Nat) (c : CoreId) (fl : Flaws) (s : State) : Res :=
  onCore c s (fun k s =>
    match s.liveOn k with
    | none => s
    | some ctx =>
      let s1 := match s.head k .te op with
        | some (_, n) => teBegin s k ctx n
        | none => s
      if (s1.core k).cx.te.stopped then s1 else
      (((s1.core k).cx.begun.filter (fun t => t.op == op)).foldl (fun (a : Tried) t =>
        if a.2 then a else tryIssue a.1 k ctx t fl) (s1, false)).1)

/-- R198, R245. -/
def execReArm (c : CoreId) (s : State) : Res := teRow 0xC0 c [] s
/-- R236, R255, R256. -/
def execTfill (c : CoreId) (s : State) : Res := teRow 0xC1 c [] s
/-- R238, R242. -/
def execTdrain (c : CoreId) (s : State) : Res := teRow 0xC2 c [] s
/-- R199, R200. -/
def execTgather (c : CoreId) (s : State) : Res := teRow 0xC3 c [] s
/-- R199 to R201. -/
def execTscatter (c : CoreId) (s : State) : Res := teRow 0xC4 c [] s
/-- R181, R257. -/
def execTcopy (c : CoreId) (s : State) : Res := teRow 0xC5 c [] s
/-- R257. -/
def execTzero (c : CoreId) (s : State) : Res := teRow 0xC6 c [] s
/-- R370. -/
def execTput (c : CoreId) (flaws : Flaws) (s : State) : Res := teRow 0xC7 c flaws s
/-- R401, R402. -/
def execTred (c : CoreId) (s : State) : Res := teRow 0xC8 c [] s

/-- R213, R215, R224. A MADD of the OPE or the VE is added at once, when its granule stands still; one of the TE is a light-path
operation, which counts among the 48 and completes with TE_OP_COMPLETE (R253, R254, R257; log 66). -/
def execMadd (c : CoreId) (e : Engine) (flaws : Flaws) (s : State) : Res :=
  onCore c (s.plant flaws) (fun k s =>
    match s.head k e 0x14 with
    | none => s
    | some (ctx, n) =>
      if ((s.core k).eng e).uncovered then refuseSignal s k e n
      else if !(s.core k).mayRead e then s else
      match readDesc s k e (wf n.word 111 100) .word n with
      | .stopped s1 => s1
      | .later => s
      | .ok d s1 =>
        if e = .te then
          let s2 := enter s1 k n 0 none none true
          match (s2.core k).cx.begun.getLast? with
          | some t => issueOp s2 k ctx t (.madd d.base (wf n.word 99 36)) .made true true
          | none => s2
        else
        match locate s1 ctx d.base .atomic false with
        | .refused kind => refuseStop s1 k e d.base kind
        | .waits _ _ => s
        | _ =>
          let s2 := (xlTouch s1 (s1.core k).die (s1.core k).cluster ctx d.base).2
          finish (addVa s2 (s.core k).cluster ctx d.base (wf n.word 99 36)).2 k e n.seq)

/-! ### Completion -/

/-- Slots that a switch left to fill again are issued while the TE has room (R257, R259): for a slot that a TGATHER filled
the reads of its index lines with it. A refill belongs to no command, and none is issued while the context leaves its core. -/
def issueRefills : Nat → State → Nat → State
  | 0, s, _ => s
  | n + 1, s, k =>
    let c := s.core k
    match s.liveOn k, c.cx.refills with
    | some ctx, (r, i) :: rest =>
      let src := (nth .empty (c.ring r).slots i).src
      let lines := match src with | .gather _ ix _ pos m _ => indexLines ix pos m | _ => []
      if 48 < c.teOps + lines.length + 1 then s else
      let ops := (lines.map (fun l => TeOpKind.reindex r i l) ++ [.refill r i []]).zipIdx.map (fun x =>
        (⟨c.hw.nextOp + x.2, ctx, 2 ^ 64, x.1, src, false, none, [], false, false⟩ : TeOp))
      issueRefills n ((s.onCx k (fun x => { x with refills := rest })).onHw k (fun h =>
        { h with ops := h.ops ++ ops, nextOp := h.nextOp + ops.length })) k
    | _, _ => s

/-- The late SIGNALs of a context that has gone reach the sink with the last of its operations on the core (R211, R322). -/
def sinkLate (s : State) (k ctx : Nat) : State :=
  let h := (s.core k).hw
  match look h.lateSigs ctx with
  | none => s
  | some n =>
    if h.ops.any (fun o => o.ctx == ctx) then s else
    (s.onHw k (fun h => { h with lateSigs := del h.lateSigs ctx })).regs k (fun r => { r with sunk := hold 24 r.sunk n })

/-- An operation that a switch found unfinished for good stands among the outstanding again as soon as one of the 48 is free
(R257). -/
def takeStuck (s : State) (k : Nat) : State :=
  s.onC k (fun c => match c.cx.stuck.filter (fun o => !o.again) with
    | [] => c
    | o :: rest => if 48 ≤ c.teOps then c else { c with
        cx := { c.cx with stuck := c.cx.stuck.filter TeOp.again ++ rest }, hw := { c.hw with ops := c.hw.ops ++ [{ o with id := c.hw.nextOp }], nextOp := c.hw.nextOp + 1 } })

/-- An operation has completed (R257, R468). -/
def endOp (s : State) (k id : Nat) : State :=
  let gone := (s.core k).hw.ops.find? (fun o => o.id == id)
  let s0 := takeStuck (s.onHw k (fun h => { h with ops := h.ops.filter (fun o => o.id != id) })) k
  let s1 := settleTe ((match gone with | some o => sinkLate s0 k o.ctx | none => s0).progress k 3) k
  issueRefills (s1.core k).cx.refills.length s1 k

def State.onOp (s : State) (k id : Nat) (f : TeOp → TeOp) : State :=
  s.onHw k (fun h => { h with ops := h.ops.map (fun o => if o.id = id then f o else o) })

/-- Translate what an operation needs; `f` completes it. A miss waits for XLATE_MISS_FILL, a moving granule for its
racking operation; a refusal stops the TE for good (R263, R265, R279). -/
def translated (s : State) (k : Nat) (o : TeOp) (slot : Bool) (rs : List (Nat × Nat × Acc)) (f : State → State) : State :=
  let c := s.core k
  match probeAll s c.die c.cluster o.ctx rs slot o.got with
  | .ok => f (touchAll s c.die c.cluster o.ctx rs o.got)
  | .refused va kind => if o.dead then endOp s k o.id else refuseStop (s.onOp k o.id (fun x => { x with refused := true })) k .te va kind
  | .waits => s
  | .miss va => s.onOp k o.id (fun x => { x with waits := some va })

/-- A tile that a fill brings into a slot. -/
def slotTile (y : Slot) (bytes : Bytes) (bad : List Nat) : Tile :=
  ⟨y.fmt, y.rows, y.cols, y.axis, y.tailCap, y.promoCap, bytes, bad.eraseDups⟩

/-- Count indices out of bounds and indices on poisoned lines (R199, R200). -/
def countIx (s : State) (k oob bad : Nat) : State :=
  s.regs k (fun g => { g with ixOob := hold 32 g.ixOob oob, ixPoison := hold 32 g.ixPoison bad })

/-- A fill completes: every line has arrived, the slot is VALID (R236, R251); `g` is what the fill counts. -/
def endFill (s : State) (k : Nat) (o : TeOp) (r i : Nat) (rows : List (Option Nat × Bool)) (g : State → State) : State :=
  let y := nth .empty ((s.core k).ring r).slots i
  let rs := o.src.runs y.rows y.cols rows
  translated s k o true (runAccs rs .read) (fun s =>
    let (bytes, bad, s1) := readRuns s (s.core k).cluster o.ctx (slotBytes y.fmt y.rows y.cols y.tailCap y.promoCap) rs
    endOp (fillSlot (g s1) k r i (slotTile y bytes bad)) k o.id)

/-- A slot is filled again (R259): one that a TGATHER filled once its index lines have been read afresh. -/
def endRefill (s : State) (k : Nat) (o : TeOp) (r i : Nat) (lines : List (Nat × Bool × List Int)) : State :=
  match o.src with
  | .gather d ix _ pos n col =>
    if (indexLines ix pos n).any (fun l => !lines.any (fun x => x.1 == l)) then s else
    let (rows, oob, bad) := resolve ix lines pos n (if d.unitRec then d.tiles else d.dim1)
    endFill s k o r i rows (fun s => if col = 0 then countIx s k oob bad else s)
  | _ => endFill s k o r i [] id

/-- A store completes: every write is acknowledged and the slot is released (R238, R251). -/
def endStore (s : State) (k : Nat) (o : TeOp) (r i : Nat) (rs : List SlotRun) (add : Bool) (fl : Flaws) : State :=
  translated s k o true (runAccs rs (if add then .atomic else .write)) (fun s =>
    let (t, s1) := readTile s k r i (tsFlaws fl)
    let s2 := storeRuns s1 (s.core k).cluster o.ctx (storeList t rs) (if add then some t.fmt else none)
    endOp (releaseOp s2 k o.id r i) k o.id)

/-- The members of a multicast that a completion may fill next: those whose cluster is not halted (R56, R256). -/
def nextMembers (s : State) (cores : List (Nat × Nat)) : List (Nat × Nat) := cores.filter (fun m => !s.haltedAt m.1)

/-- A tile of a multicast has fully arrived at one member, which a free value names: its slot is VALID there (R256). -/
def fillMember (s : State) (k : Nat) (o : TeOp) (r : Nat) (cores : List (Nat × Nat)) (t : Tile) : State :=
  let ms := nextMembers s cores
  let (v, s0) := if ms.length < 2 then (0, s) else s.fresh
  match ms[v % ms.length]? with
  | none => s
  | some m =>
    let s1 := (fillSlot s0 m.1 r m.2 t).regs m.1 (fun g => { g with flowMcast := hold 24 g.flowMcast 1 })
    let rest := cores.filter (· != m)
    if rest.isEmpty then endOp s1 k o.id else s1.onOp k o.id (fun x => { x with kind := .mcast r rest (some t) })

/-- The accesses of a TRED to its bucket's accumulation area (R401): none for an ALLGATHER. -/
def tredArea (s : State) (p i b : Nat) : List (Nat × Nat × Acc) :=
  match (s.coll p i).bind (fun c => c.bucket b) with
  | some x => if x.kind = 2 then [] else [(x.accum, 8 * x.len, .read), (x.accum, 8 * x.len + x.len / 32, .write)]
  | none => []

/-- An operation issued on a core completes when its accesses are made (R236, R257). Nothing signals for
an operation whose context was aborted (R320, R476). A TPUT completes by its acknowledgement. Each completion of a multicast
fills one member; with the last the operation ends (log 73). -/
def completeOp (s : State) (k op : Nat) (flaws : Flaws) : State :=
  match (s.core k).hw.ops.find? (fun o => o.id == op) with
  | none => s
  | some o =>
    if o.refused || o.waits.isSome || s.haltedAt k then s else
    match o.kind with
    | .fill r i rows => if o.dead then endOp s k op else endFill s k o r i rows id
    | .refill r i lines => if o.dead then endOp s k op else endRefill s k o r i lines
    | .reindex r i l =>
      if o.dead then endOp s k op else
      translated s k o false [(64 * l, 64, .read)] (fun s =>
        let (bs, bad, s1) := rdVa s (s.core k).cluster o.ctx (64 * l) 64 false
        endOp (s1.onHw k (fun h => { h with ops := h.ops.map (fun x => match x.kind with
          | .refill r' i' ls => if r' = r ∧ i' = i then { x with kind := .refill r i (ls ++ [(l, !bad.isEmpty, indexVals bs)]) } else x
          | _ => x) })) k op)
    | .reload r i obj off =>
      if o.dead then endOp s k op else
      let g := ((s.core k).ring r).geom
      let y := nth .empty ((s.core k).ring r).slots i
      endOp (fillSlot s k r i (slotTile y (objRead s obj off (64 * g.slotLines)) (objBad s obj off (64 * g.slotLines)))) k op
    | .mcast r cores got =>
      if o.dead || cores.isEmpty then endOp s k op else
      (match got with
      | some t => fillMember s k o r cores t
      | none =>
        let y := match cores with | (m, i) :: _ => nth .empty ((s.core m).ring r).slots i | [] => .empty
        let rs := o.src.runs y.rows y.cols []
        translated s k o true (runAccs rs .read) (fun s =>
          let (bytes, bad, s1) := readRuns s (s.core k).cluster o.ctx (slotBytes y.fmt y.rows y.cols y.tailCap y.promoCap) rs
          let t := slotTile y bytes bad
          fillMember (s1.onOp k op (fun x => { x with kind := .mcast r cores (some t) })) k o r cores t))
    | .madd va v =>
      if o.dead || (s.ctx o.ctx).st == .closing then endOp s k op else
      translated s k o false [(va, 8, .atomic)] (fun s => endOp (addVa s (s.core k).cluster o.ctx va v).2 k op)
    | .store r i =>
      let y := nth .empty ((s.core k).ring r).slots i
      if y.st ≠ .valid then s else
      (match o.src with
      | .walk d base cur =>
        let (h, w) := storeShape d y cur
        endStore s k o r i (walkRuns d base cur h w) false flaws
      | _ => s)
    | .scatter r i rows add =>
      if (nth .empty ((s.core k).ring r).slots i).st ≠ .valid then s else
      (match o.src with
      | .gather d _ base pos _ col =>
        let runs := fun (rows : List (Option Nat × Bool)) => gatherRuns d base col (Nat.min 128 (d.dim0 - 128 * col)) rows
        match (s.core k).cx.begun.find? (fun t => t.seq == o.seq && !add) with
        | none => endStore s k o r i (runs rows) add flaws
        | some t =>
          let (go, landed) := landRows t pos col rows
          let s1 := endStore s k o r i (runs go) false flaws
          if (s1.core k).hw.ops.any (fun x => x.id == o.id) then s1 else s1.onBegun k o.seq (fun u => { u with landed := landed })
      | _ => s)
    | .copy l =>
      translated s k o true (l.flatMap (fun x => [(x.1, x.2.2, Acc.read), (x.2.1, x.2.2, Acc.write)])) (fun s =>
        endOp (l.foldl (fun (s : State) x =>
          let (bs, bad, s1) := rdVa s (s.core k).cluster o.ctx x.1 x.2.2 true
          wrVa s1 (s.core k).cluster o.ctx x.2.1 bs bad true) s) k op)
    | .zero l =>
      translated s k o true (l.map (fun x => (x.1, x.2, Acc.write))) (fun s =>
        endOp (l.foldl (fun (s : State) x => wrVa s (s.core k).cluster o.ctx x.1 (zeros x.2) [] true) s) k op)
    | .index l =>
      if o.dead then endOp s k op else
      translated s k o false [(64 * l, 64, .read)] (fun s =>
        let (bs, bad, s1) := rdVa s (s.core k).cluster o.ctx (64 * l) 64 false
        endOp (s1.onBegun k o.seq (fun t => { t with lines := t.lines ++ [(l, !bad.isEmpty, indexVals bs)] })) k op)
    | .put _ _ _ _ => s
    | .tred p i b =>
      if o.dead then endOp s k op else
      match (s.core k).cx.begun.find? (fun t => t.seq == o.seq) with
      | some t => match t.d, tredReady s o.ctx t.word with
        | some d, some _ =>
          translated s k o true ((d.rowRuns d.base).map (fun x => (x.1, x.2, Acc.read)) ++ tredArea s p i b) (fun s =>
            endOp (takeTred s p i b d) k op)
        | _, _ => s
      | none => s
    | .late l add =>
      if l.any (fun r => match locateRun s o.ctx r.1 r.2.1.length (if add.isSome then .atomic else .write) true with
        | some (_, .waits _ _) => true
        | _ => false) then s
      else endOp (storeRuns s (s.core k).cluster o.ctx l add) k op

/-- R263: the translation unit of a cluster completes the first miss that waits in it, and counts it; not in a halted
cluster (R56). -/
def execXlateMissFill (d k : Nat) (s : State) : Res :=
  onUnit d k 8 s (fun s =>
    let waiting := s.cores.flatMap (fun p =>
      if p.1 / 68 = d ∧ p.2.cluster = k then p.2.hw.ops.filterMap (fun o => o.waits.map (fun va => (p.1, o.id, o.ctx, va))) else [])
    if (s.cluster d k).halted then s else
    match waiting with
    | [] => s
    | (c, id, ctx, va) :: _ => (xlTouch s d k ctx va).2.onOp c id (fun o => { o with waits := none, got := va :: o.got }))

end Sys2Proof.Machine
end

