-- ==== Sys2Proof/Machine/Memory.lean ====
section
/-! DEFINITION. Objects, windows and racking (R262, R265 to R287), scrubbing and error counts (R290 to R292), the
spare bank (R506), and the argument object (R443). -/

set_option autoImplicit false

namespace Sys2Proof.Machine

def State.obj (s : State) (i : Nat) : Option Obj := (look s.objs i).filter Obj.ready
def State.onObj (s : State) (i : Nat) (f : Obj → Obj) : State :=
  match look s.objs i with
  | some o => { s with objs := put s.objs i (f o) }
  | none => s

/-! ### The argument object (R443) -/

/-- Whether a write would wait for a granule on its way (R279). -/
def objWaits (s : State) (obj off n : Nat) : Bool :=
  (pieces off n).any (fun p => match objAt s obj p.1 .write with | .waits _ _ => true | _ => false)

/-- Write bytes of an object. -/
def objWrite (s : State) (obj off : Nat) (bs : Bytes) : State :=
  (dealt (pieces off bs.length) bs).foldl (fun (s : State) p => match objAt s obj p.1 .write with
    | .at_ a o g => setDirty (wrPhys s a p.2 false) o g (a % 65536)
    | .lost => dropFenced s
    | _ => s) s

/-- A session's argument object, when a range lies within it (R443, R445). -/
def argsAt (s : State) (sess off n : Nat) : Option Nat :=
  ((look s.sess sess).bind (fun x => x.args)).bind (fun i =>
    match s.obj i with
    | some o => if off + n ≤ o.granules * 65536 then some i else none
    | none => none)

/-- Complete a request that writes its result to the argument object first (R443). -/
def result (s : State) (t : Taken) (off : Nat) (bs : Bytes) : State :=
  match argsAt s t.sess off bs.length with
  | none => complete s t.uid stBadArgs []
  | some i => if objWaits s i off bs.length then s else complete (objWrite s i off bs) t.uid stOk []

/-! ### Frames (R267 to R269, R272, R273) -/

/-- The first so many frames from a number that are not in use: the lowest ones (log 10). -/
def pickFrames : Nat → Nat → Nat → List Nat → List Nat
  | 0, _, _, _ => []
  | fuel + 1, f, need, used =>
    if need = 0 then []
    else if used.contains f then pickFrames fuel (f + 1) need used
    else f :: pickFrames fuel (f + 1) (need - 1) used

/-- Near frames of a cluster that objects may take: the die's top 256 MiB lie in cluster 7. -/
def nearFrames (k : Nat) : Nat := if k = 7 then 131072 - 4096 else 131072

/-- Far frames of a cluster: on the boot die the dump region lies at the top (R269, R493). A die without working far memory has
none (R498). -/
def farFrames (s : State) (d k : Nat) : Nat :=
  if (s.die d).noFar then 0 else if d = s.fw.bootDie then Nat.min 524288 (4194304 - 16384 * s.dump.size - 524288 * k) else 524288

def Obj.holdsNear (o : Obj) : Bool := o.policy == 0 || o.st != 0

/-- Frames in use on a die. -/
def usedFrames (s : State) (d : Nat) (near : Bool) : List Nat :=
  s.objs.flatMap (fun p =>
    if p.1 / 2 ^ 17 ≠ d then []
    else if near then (if p.2.holdsNear then p.2.grans.map Gran.near else [])
    else if p.2.policy = 0 then [] else p.2.grans.map Gran.far)

/-- Clusters of a mask, ascending. -/
def maskList (m : Nat) : List Nat := (List.range 8).filter (fun k => bit m k)

/-- Frames for the granules of an object, granule g on the (g mod n)-th cluster of its mask; none when they are lacking. -/
def allocate (s : State) (d mask granules : Nat) (near : Bool) : Option (List Nat) :=
  let ks := maskList mask
  let used := usedFrames s d near
  let per := ks.zipIdx.map (fun p =>
    let need := (granules + ks.length - 1 - p.2) / ks.length
    let top := if near then nearFrames p.1 else farFrames s d p.1
    (need, pickFrames top ((if near then 131072 else 524288) * p.1) need used))
  if per.any (fun p => decide (p.2.length < p.1)) then none
  else some ((List.range granules).map (fun g => nth 0 (nth (0, []) per (g % ks.length)).2 (g / ks.length)))

/-! ### Racking operations (R276, R278, R281, R282, R287) -/

/-- The caches of every cluster drop an object's granule (R281). -/
def dropGran (s : State) (obj g : Nat) : State :=
  { s with clusters := mapAll s.clusters (fun _ x => { x with granCache := x.granCache.filter (fun p => p.1 % 2 ^ 20 != obj || p.2 != g) }) }

/-- Begin the next operation of an object: a promotion or a demotion moves the granule on; a demotion and a flush take
its DIRTY bits; a clean granule is no work for a flush (R282). -/
def beginOp (s : State) (i : Nat) (o : Obj) : State :=
  let todo := if o.work = some .flush then
      o.todo.dropWhile (fun g => match o.grans[g]? with | some e => e.dirty == 0 | none => true) else o.todo
  match todo with
  | [] => s.onObj i (fun o => { o with todo := [] })
  | g :: rest =>
    let d := match o.grans[g]? with | some e => e.dirty | none => 0
    let o1 := { o with todo := rest, live := o.live ++ [g] }
    let o2 := match o.work with
      | some .promote => { o1 with grans := modNth o1.grans g (fun e => { e with st := .promoting }) }
      | some .demote => { o1 with
          grans := modNth o1.grans g (fun e => { e with st := .demoting, dirty := 0 }), took := put o1.took g d }
      | some .flush => { o1 with
          grans := modNth o1.grans g (fun e => { e with dirty := 0 }), took := put o1.took g d }
      | _ => o1
    dropGran (s.onObj i (fun _ => o2)) i g

/-- Operations of an engine, and the objects it has in work (R276). -/
def rackObjs (s : State) (d e : Nat) : List (Nat × Obj) :=
  s.objs.filter (fun p => decide (p.1 / 2 ^ 17 = d) && p.2.engine == e)
def rackOps (s : State) (d e : Nat) : Nat := ((rackObjs s d e).map (fun p => p.2.live.length)).sum
def rackBusy (s : State) (d e : Nat) : Nat := ((rackObjs s d e).filter (fun p => p.2.work.isSome)).length

/-- Begin operations while the engine has room: 64 operations (R276). -/
def pump : Nat → State → Nat → Nat → State
  | 0, s, _, _ => s
  | n + 1, s, d, e =>
    if 64 ≤ rackOps s d e then s else
    match (rackObjs s d e).find? (fun p => !p.2.todo.isEmpty) with
    | none => s
    | some (i, o) => pump n (beginOp s i o) d e

/-- A context's pins on an object (R284). -/
def pinsOf (s : State) (ctx obj : Nat) : Nat := get 0 (s.ctx ctx).pins obj
def setPins (s : State) (ctx obj n : Nat) : State :=
  s.setCtx ctx { s.ctx ctx with pins := if n = 0 then del (s.ctx ctx).pins obj else put (s.ctx ctx).pins obj n }

def done_ (s : State) (uid : Option Nat) (status : Nat) : State :=
  match uid with
  | some u => complete s u status []
  | none => s

/-- Whether a PROMOTE breaks R284. -/
def pinLimit (s : State) (ctx obj : Nat) : Bool :=
  decide (255 ≤ pinsOf s ctx obj) || (pinsOf s ctx obj == 0 && decide (4096 ≤ (s.ctx ctx).pins.length))

/-- An object takes a request by R283, or the request waits at the head of its queue (none). One kind of racking works
on an object at a time: an unpin to 0 and a FLUSH wait for a FLUSH under way (log 26). -/
def takeRack (s : State) (i : Nat) (o : Obj) (r : RackReq) : Option State :=
  let pins := pinsOf s r.ctx i
  let all := List.range o.granules
  let fin := r.uid.toList
  let pin := fun (s : State) => (setPins s r.ctx i (pins + 1)).onObj i (fun o => { o with pins := o.pins + 1 })
  match r.kind with
  | .promote =>
    if o.st = 3 then none
    else if pinLimit s r.ctx i then some (done_ s r.uid stLimit)
    else if o.st = 0 then
      match allocate s (i / 2 ^ 17) o.clusters o.granules true with
      | none => some (done_ s r.uid stNoNear)
      | some fs => some ((pin s).onObj i (fun o => { o with
          st := 1, work := some .promote, serves := r.ctx, todo := all, live := [], took := [], finish := fin
          grans := (o.grans.zip fs).map (fun p => { p.1 with near := p.2, dirty := 0 }) }))
    else if o.st = 1 then some ((pin s).onObj i (fun o => { o with finish := o.finish ++ fin }))
    else some (done_ (pin s) r.uid stOk)
  | .demote =>
    if pins = 0 then some (done_ s r.uid stNotPinned)
    else if o.st ≠ 2 then none
    else
      let unpin := fun (s : State) => (setPins s r.ctx i (pins - 1)).onObj i (fun o => { o with pins := o.pins - 1 })
      if 1 < o.pins then some (done_ (unpin s) r.uid stOk)
      else if o.work.isSome then none
      else some ((unpin s).onObj i (fun o => { o with st := 3, work := some .demote, serves := r.ctx, todo := all, live := [], took := [], finish := fin }))
  | .flush =>
    if o.st = 0 then some (done_ s r.uid stOk)
    else if o.st = 3 then some (s.onObj i (fun o => { o with finish := o.finish ++ fin }))
    else if o.st = 1 ∨ o.work.isSome then none
    else some (s.onObj i (fun o => { o with work := some .flush, todo := all, live := [], took := [], finish := fin }))
  | .zero => some (s.onObj i (fun o => { o with work := some .zero, todo := all, finish := fin }))

/-- The work of an object ends (R273, R283): its state moves on and the requests that waited for that complete. -/
def endWork (s : State) (i : Nat) (o : Obj) : State :=
  let s1 := s.onObj i (fun o => { o with
    work := none, took := [], finish := [], ready := true
    st := match o.work with | some .promote => 2 | some .demote => 0 | _ => o.st })
  o.finish.foldl (fun (s : State) u => complete s u stOk (if o.work = some .zero then natLe 4 i else [])) s1

/-- Take the waiting requests of an object, in order, while the engine has the object in work or has room for one more: it
works on the requests of at most 8 objects at once (R276). -/
def takeQueue : Nat → State → Nat → State
  | 0, s, _ => s
  | n + 1, s, i =>
    match look s.objs i with
    | none => s
    | some o =>
      match o.queue with
      | [] => s
      | r :: rest =>
        if (!o.ready && r.kind != .zero) || (o.work.isNone && decide (8 ≤ rackBusy s (i / 2 ^ 17) o.engine)) then s else
        match takeRack s i o r with
        | none => s
        | some s1 => takeQueue n (s1.onObj i (fun o => { o with queue := rest })) i

/-- Let an engine go on: begin operations, end work that has none left, take requests, until nothing moves. -/
def rackRun : Nat → State → Nat → Nat → State
  | 0, s, _, _ => s
  | n + 1, s, d, e =>
    let s1 := pump (64 + (rackObjs s d e).length) s d e
    match (rackObjs s1 d e).find? (fun p => p.2.work.isSome && p.2.todo.isEmpty && p.2.live.isEmpty) with
    | none => s1
    | some (i, o) => rackRun n ((rackObjs s1 d e).foldl (fun (s : State) p => takeQueue p.2.queue.length s p.1) (endWork s1 i o)) d e

/-- Every engine stops at an orderly shutdown (R513). -/
def rackGo (s : State) (d e : Nat) : State :=
  if s.fw.stopping then s else
  rackRun (1 + ((rackObjs s d e).map (fun p => p.2.queue.length + 1)).sum) s d e

/-- A request reaches an object (R283). -/
def rackAsk (s : State) (i : Nat) (r : RackReq) : State :=
  match look s.objs i with
  | none => s
  | some o =>
    let s1 := s.onObj i (fun o => { o with queue := o.queue ++ [r] })
    rackGo (takeQueue (o.queue.length + 1) s1 i) (i / 2 ^ 17) o.engine

/-- Copy lines from one physical run to another, each with its poison bit (R290). -/
def copyLines (s : State) (a b n : Nat) : State :=
  (List.range (n / 64)).foldl (fun (s : State) j =>
    let s1 := countAcc (meet s 0xFFFF (a + 64 * j) 64) (a + 64 * j)
    let (bs, bad) := rdPhys s1 (a + 64 * j) 64
    wrPhys s1 (b + 64 * j) bs bad) s

/-- Dirty sectors of a mask. -/
def sectors (m : Nat) : List Nat := (List.range 16).filter (fun j => bit m j)

/-- Complete the operation on a granule: zero its frame, bring it near, or write back its sectors (R273, R279, R282). -/
def endRackOp (s : State) (i : Nat) (o : Obj) (g : Nat) : State :=
  let d := i / 2 ^ 17
  match o.grans[g]? with
  | none => s
  | some e =>
    let count := fun (s : State) (f : Rack → Rack) => s.setRack d o.engine (f (s.rack d o.engine))
    let s0 := count (s.onObj i (fun o => { o with live := o.live.filter (· != g), took := del o.took g })) (fun r => { r with done := r.done + 1 })
    let back := fun (s : State) =>
      let ss := sectors (get 0 o.took g)
      count (ss.foldl (fun (s : State) j => copyLines s (nearAddr i e.near + 4096 * j) (farAddr i e.far + 4096 * j) 4096) s)
        (fun r => { r with sectors := (r.sectors + ss.length) % 2 ^ 24 })
    match o.work with
    | some .zero =>
      (List.range 1024).foldl (fun (s : State) j =>
        wrPhys s ((if o.policy = 0 then nearAddr i e.near else farAddr i e.far) + 64 * j) (zeros 64) false) s0
    | some .promote =>
      let s1 := copyLines s0 (farAddr i e.far) (nearAddr i e.near) 65536
      dropGran (count (s1.onObj i (fun o => { o with grans := modNth o.grans g (fun e => { e with st := .near, dirty := 0 }) }))
        (fun r => { r with promoted := (r.promoted + 1) % 2 ^ 20 })) i g
    | some .demote =>
      dropGran (count ((back s0).onObj i (fun o => { o with grans := modNth o.grans g (fun e => { e with st := .far, near := 0 }) }))
        (fun r => { r with demoted := (r.demoted + 1) % 2 ^ 20 })) i g
    | some .flush => back s0
    | none => s0

/-- Cut the operations that work on an object's granules of some clusters (R287): the granules keep their states, and
the sectors being written back are dirty again; the cut operations come first again. -/
def cutObj (o : Obj) (hit : Nat → Bool) : Obj :=
  let cut := o.live.filter (fun g => hit (maskNth o.clusters g))
  { o with
    live := o.live.filter (fun g => !cut.contains g), todo := cut ++ o.todo
    took := o.took.filter (fun p => !cut.contains p.1)
    grans := cut.foldl (fun (l : List Gran) g => modNth l g (fun e => { e with dirty := e.dirty ||| get 0 o.took g })) o.grans }

/-- The reset of a racking engine: its operations are cut, its requests stay, and the cut operations are reissued. -/
def resetRack (s : State) (d e : Nat) : State :=
  rackGo { s.delDue (.l1rack d e) with
    objs := mapAll s.objs (fun i o => if i / 2 ^ 17 = d ∧ o.engine = e then cutObj o (fun _ => true) else o) } d e

/-- R287, R478. -/
def execRackReset (d e : Nat) (s : State) : Res := onUnit d e 16 s (fun s => resetRack s d e)

/-! ### Scrubbing, error counts, spare bank (R290 to R292, R506) -/

/-- Whether a cluster's partition is in clearing: its scrubbers pause (R291). -/
def clearing (s : State) (d k : Nat) : Bool :=
  match s.partAt d k with
  | some p => (s.part p).st == .inClearing
  | none => false

/-- Lines of a near channel group and of a far channel (R267). -/
def scrubLines (far : Bool) : Nat := if far then 2 ^ 28 else 2 ^ 27

/-- Lines that a scrubber has read since start. -/
def Die.scrubbed (x : Die) (far : Bool) (i : Nat) : Nat := get 0 (if far then x.scrubFar else x.scrubNear) i

/-- The line that a scrubber reads next: it goes through its channel in ascending addresses (R267, R291; log 76). -/
def scrubLine (d : Nat) (far : Bool) (i n : Nat) : Nat :=
  let j := n % scrubLines far
  d * 2 ^ 36 + (if far then 2 ^ 34 + i / 2 * 2 ^ 29 + j / 4 * 8 + i % 2 * 4 + j % 4 else i * 2 ^ 27 + j)

/-- Complete passes of all channels of a tier (R292). -/
def Die.passes (x : Die) (far : Bool) : Nat :=
  ((List.range (if far then 16 else 8)).map (x.scrubbed far)).min?.getD 0 / scrubLines far

/-- R291: the scrubber of a near group or a far channel reads its next line and handles what it finds by R290. It pauses
while its partition is in clearing, stops at an orderly shutdown (R513), and stands still on a fenced die and with the memory rails
off. -/
def execPatrolScrub (d : Nat) (chan : Chan) (flaw : Option Flaw) (s : State) : Res :=
  let far := chan.far
  let index := chan.index
  onUnit d index (if far then 16 else 8) s (fun s =>
    if s.fenced d || !(s.die d).dramOn || s.fw.stopping || clearing s d (if far then index / 2 else index) then s else
    let n := (s.die d).scrubbed far index
    let s1 := s.setDie d (if far then { s.die d with scrubFar := put (s.die d).scrubFar index (n + 1) }
      else { s.die d with scrubNear := put (s.die d).scrubNear index (n + 1) })
    let l := scrubLine d far index n
    let s2 := match flaw with
      | some f => s1.plant [(l, f)]
      | none => s1
    meet s2 0xFFFF (64 * l) 64)

/-- R292: a write of the firmware sets the register to 0. -/
def execMemErrorsClear (d : Nat) (far : Bool) (index : Nat) (s : State) : Res :=
  onUnit d index (if far then 16 else 8) s (fun s =>
    if far then s.setDie d { s.die d with far := put (s.die d).far index ⟨0, 0, 0⟩ }
    else s.setCluster d index { s.cluster d index with near := ⟨0, 0, 0⟩ })

/-- R506: the copy of a bank has read its lines, with whatever errors stand there (R290), and is complete: the group directs every
access to the spare, and the entry is APPLIED. -/
def execSpareBankCopyDone (d k bank : Nat) (s : State) : Res :=
  onUnit d k 8 s (fun s =>
    let c := s.cluster d k
    if !c.copying.contains bank then s else
    let s0 := (s.latent.filter (fun p => tierOf (64 * p.1) == .near d k && Config.nearBank (64 * p.1) == bank)).foldl
      (fun (s : State) p => meet s 0xFFFF (64 * p.1) 64) s
    let s1 := s0.setCluster d k { s0.cluster d k with copying := (s0.cluster d k).copying.filter (· != bank) }
    match s1.maps.find? (fun e => e.kind == 5 && e.die == d && e.unit == k && e.sub == bank && e.st == 0) with
    | some e => mapSet s1 { e with st := 1 }
    | none => s1)

/-! ### Requests (R270, R271, R273 to R275, R283 to R286, R484) -/

/-- R270, R273, R275. CREATE names policy, cluster mask and granules and is executed on the boot die (R426). DESIGN CHOICE
(log 27): no field lists a die, and an argument byte past them may name another home die, as its number plus 1. -/
def execCreate (n : Nat) (s : State) : Res :=
  onReq s n 0x0101 (fun t s =>
    let policy := field t.fields 0 1
    let mask := field t.fields 1 1
    let granules := field t.fields 4 4
    let d := if field t.fields 8 1 = 0 then s.fw.bootDie else field t.fields 8 1 - 1
    if 4 ≤ policy ∨ mask = 0 ∨ granules = 0 ∨ 2 ^ 22 < granules ∨ s.model.dies ≤ d then complete s t.uid stLimit []
    else
      let lacking := if policy = 0 then stNoNear else stNoFar
      if s.fenced d then complete s t.uid lacking [] else
      match leastFree s.objs (d * 2 ^ 17) (2 ^ 17) with
      | none => complete s t.uid stLimit []
      | some i =>
        match allocate s d mask granules (policy == 0) with
        | none => complete s t.uid lacking []
        | some fs =>
          let e := 2 * (maskList mask).headD 0 + i % 2
          let o : Obj := {
            granules := granules, policy := policy, st := if policy = 0 then 2 else 0, clusters := mask, engine := e,
            pins := 0, maps := 0,
            grans := fs.map (fun f => if policy = 0 then ⟨.nearOnly, 0, 0, f⟩ else ⟨.far, 0, f, 0⟩),
            queue := [], work := none, serves := 0xFFFF, todo := [], live := [], took := [], finish := [], sess := t.sess, ready := false }
          rackAsk { running s t.uid with objs := put s.objs i o } i ⟨.zero, 0, some t.uid⟩)

/-- R275, R285, R484. A number that names no object is NOT_FOUND; FREE waits for racking under way (R442). -/
def execFree (n : Nat) (s : State) : Res :=
  onReq s n 0x0102 (fun t s =>
    let i := field t.fields 0 4
    if s.fenced (i / 2 ^ 17) && (look s.objs i).isSome then complete s t.uid stOk [] else
    match s.obj i with
    | none => complete s t.uid stNotFound []
    | some o =>
      if o.maps ≠ 0 ∨ o.pins ≠ 0 then complete s t.uid stBusy []
      else if o.work.isSome ∨ !o.queue.isEmpty then s
      else complete { s with objs := del s.objs i } t.uid stOk [])

/-- Whether a request that names a context finds it (R309, R484). -/
def State.ctxNamed (s : State) (c : Nat) : Bool :=
  match look s.ctxs c with
  | some x => x.st != .free && x.st != .closing && !s.fenced (c / 1024)
  | none => false

/-- A window of a request: base, offset, granules, object, access. -/
def windowOk (s : State) (w : Window) : Bool :=
  match s.obj w.obj with
  | none => false
  | some o => decide (w.base % 65536 = 0) && decide (1 ≤ w.granules) && decide (w.granules ≤ 2 ^ 22)
      && decide (w.base + w.granules * 65536 ≤ 2 ^ 52) && decide (w.offset + w.granules ≤ o.granules)

def Window.meets (a b : Window) : Bool :=
  decide (a.base < b.base + b.granules * 65536) && decide (b.base < a.base + a.granules * 65536)

/-- Put a window in a context's table, sorted by BASE, and count it at its object. -/
def addWindow (s : State) (c : Nat) (w : Window) : State :=
  let x := s.ctx c
  let (lo, hi) := x.windows.partition (fun v => decide (v.base < w.base))
  (s.setCtx c { x with windows := lo ++ w :: hi }).onObj w.obj (fun o => { o with maps := o.maps + 1 })

/-- R262, R275. -/
def execMap (n : Nat) (s : State) : Res :=
  onReq s n 0x0103 (fun t s =>
    let f := field t.fields
    let c := f 0 2
    let acc := f 28 1
    let w : Window := ⟨f 8 8, f 24 4, f 16 8, f 4 4, bit acc 0, bit acc 1, bit acc 2⟩
    if !s.ctxNamed c || s.fenced (w.obj / 2 ^ 17) || (s.obj w.obj).isNone then complete s t.uid stNotFound []
    else if !windowOk s w || decide (4096 ≤ (s.ctx c).windows.length) then complete s t.uid stLimit []
    else if (s.ctx c).windows.any (fun v => v.meets w) then complete s t.uid stOverlap []
    else complete (addWindow s c w) t.uid stOk [])

/-- Every translation cache drops a window (R266). -/
def dropWindow (s : State) (c base : Nat) : State :=
  { s with clusters := mapAll s.clusters (fun _ x => { x with winCache := x.winCache.filter (fun p => p != (c, base)) }) }

/-- Remove a window (R266). -/
def delWindow (s : State) (c : Nat) (w : Window) : State :=
  let x := s.ctx c
  (dropWindow (s.setCtx c { x with windows := x.windows.filter (fun v => v.base != w.base) }) c w.base).onObj w.obj
    (fun o => { o with maps := o.maps - 1 })

/-- Memory that an operation outstanding has still to reach: address and length. -/
def opRuns (c : Core) (o : TeOp) : List (Nat × Nat) :=
  let runs := fun (r i : Nat) (rows : List (Option Nat × Bool)) =>
    let y := nth .empty (c.ring r).slots i
    (o.src.runs y.rows y.cols rows).filterMap (fun x => x.1.map (fun va => (va, x.2.1)))
  match o.kind with
  | .fill r i rows => runs r i rows
  | .refill r i _ =>
    (match o.src with
    | .gather d _ _ _ _ _ => d.units
    | _ => runs r i [])
  | .reindex _ _ l => [(64 * l, 64)]
  | .reload _ _ _ _ => []
  | .mcast _ _ _ => (match o.src with
    | .walk d base cur => (walkRuns d base cur 128 128).filterMap (fun x => x.1.map (fun va => (va, x.2.1)))
    | _ => [])
  | .store r i => runs r i []
  | .scatter r i rows _ => runs r i rows
  | .copy l => l.flatMap (fun x => [(x.1, x.2.2), (x.2.1, x.2.2)])
  | .zero l => l
  | .index l => [(64 * l, 64)]
  | .put _ _ _ _ => []
  | .madd va _ => [(va, 8)]
  | .tred _ _ _ => ((c.cx.begun.find? (fun t => t.seq == o.seq)).bind TeCmd.d).elim [] (fun d => d.rowRuns d.base)
  | .late l _ => l.map (fun x => (x.1, x.2.1.length))

/-- Whether a place in an object lies in a window's run. -/
def Window.covers (w : Window) (obj off : Nat) : Bool :=
  w.obj == obj && decide (w.offset * 65536 ≤ off) && decide (off < (w.offset + w.granules) * 65536)

/-- Whether an access translated through a window has still to complete (R266): an operation, a read, a write that waits for
a granule, the adds of a begun VE command (R142), or an inbound access that waits. -/
def windowUsed (s : State) (c : Nat) (w : Window) : Bool :=
  let ve := fun (x : CoreCtx) => match x.veCmd with | some v => w.covers v.place.1 v.place.2 | none => false
  s.owed.any (fun o => o.ctx == c && w.covers o.obj o.off)
    || (s.ctx c).saved.any (fun p => ve p.2)
    || s.cores.any (fun p => p.2.ctx == some c && ve p.2.cx)
    || s.cores.any (fun p =>
    p.2.hw.ops.any (fun o => o.ctx == c && !o.refused && (opRuns p.2 o).any (fun r =>
      decide (r.1 < w.base + w.granules * 65536) && decide (w.base < r.1 + r.2)))
    || (p.2.ctx == some c && [p.2.cx.ope, p.2.cx.ve, p.2.cx.te].any (fun e => match e.wait with
        | some v => v.inFlight
        | none => false)))
    || s.ports.any (fun pt => pt.2.qps.any (fun q => q.2.owner == .ctx c && q.2.held.any (fun h =>
        decide (h.2.va < w.base + w.granules * 65536) && decide (w.base < h.2.va + Nat.max h.2.len h.2.data.length))))

/-- R266, R275, R484. -/
def execUnmap (n : Nat) (s : State) : Res :=
  onReq s n 0x0104 (fun t s =>
    let c := field t.fields 0 2
    if !s.ctxNamed c then complete s t.uid stNotFound [] else
    match (s.ctx c).windows.find? (fun w => w.base == field t.fields 8 8) with
    | none => complete s t.uid stNotMapped []
    | some w => if windowUsed s c w then s else complete (delWindow s c w) t.uid stOk [])

/-- PROMOTE, EVICT and FLUSH: the request goes to the object's queue; an object of another policy refuses it (R271). -/
def rackRequest (s : State) (t : Taken) (i ctx : Nat) (kind : RWork) (named : Bool) : State :=
  if (named && !s.ctxNamed ctx) || s.fenced (i / 2 ^ 17) then complete s t.uid stNotFound [] else
  match s.obj i with
  | none => complete s t.uid stNotFound []
  | some o => if o.policy ≠ 2 then complete s t.uid stPolicy []
    else rackAsk (running s t.uid) i ⟨kind, ctx, some t.uid⟩

/-- R283, R284. -/
def execPromote (n : Nat) (s : State) : Res :=
  onReq s n 0x0105 (fun t s => rackRequest s t (field t.fields 4 4) (field t.fields 0 2) .promote true)

/-- R283, R285. -/
def execEvict (n : Nat) (s : State) : Res :=
  onReq s n 0x0106 (fun t s => rackRequest s t (field t.fields 4 4) (field t.fields 0 2) .demote true)

/-- R282, R283. -/
def execFlush (n : Nat) (s : State) : Res :=
  onReq s n 0x0107 (fun t s => rackRequest s t (field t.fields 0 4) 0 .flush false)

/-- Where a table of a die stands: in the firmware area at the top of its near memory, aligned to 64 bytes (R262, R269; log 76). -/
def tableAt (d x : Nat) : Nat := d * 2 ^ 42 + 0xFF0000000 + 64 * (x % 2 ^ 22)

/-- The granule table of an object, as it stands in the firmware area (R278). -/
def Obj.table (o : Obj) : Bytes := o.grans.flatMap Gran.entry

/-- The object record (R274). -/
def Obj.record (i : Nat) (o : Obj) : Bytes :=
  natLe 4 o.granules ++ natLe 1 (128 + o.policy) ++ natLe 1 o.st ++ natLe 1 o.clusters ++ natLe 1 o.engine
    ++ natLe 8 (tableAt (i / 2 ^ 17) (Config.gtableAt i)) ++ natLe 4 o.pins ++ natLe 4 o.maps ++ natLe 4 o.queue.length ++ zeros 36

/-- R274, R275. -/
def execQuery (n : Nat) (s : State) : Res :=
  onReq s n 0x0108 (fun t s =>
    let i := field t.fields 0 4
    if s.fenced (i / 2 ^ 17) then complete s t.uid stNotFound [] else
    match s.obj i with
    | none => complete s t.uid stNotFound []
    | some o => result s t (field t.fields 8 8) (o.record i))

end Sys2Proof.Machine
end

