-- ==== Sys2Proof/Machine/Switch.lean ====
section
/-! DEFINITION. The context switch (R110, R111, R159 to R164, R192, R211, R231, R258, R259, R310 to R318, R503, R529) and
the context abort (R475, R476). -/

set_option autoImplicit false

namespace Sys2Proof.Machine

/-! ### The save area (R311) -/

/-- Save object and block offset of a logical core. -/
def Ctx.block (x : Ctx) (lc : Nat) : Nat × Nat := (nth 0 x.save (lc / 8), lc % 8 * 0x110000)

/-- Write bytes with their poisoned lines, counted from the first. -/
def objWriteP (s : State) (obj off : Nat) (bs : Bytes) (bad : List Nat) : State :=
  (dealt (pieces off bs.length) bs).foldl (fun (s : State) p => match objAt s obj p.1 .write with
    | .at_ a o g => setDirty (wrPhys s a p.2 (bad.contains (p.1 / 64 - off / 64))) o g (a % 65536)
    | .lost => dropFenced s
    | _ => s) s

/-- Bytes that no rule gives: the layout of the saved CC, engine, ring and wait state (log 29). -/
def freeBytes (s : State) (n : Nat) : Bytes × State :=
  ((List.range n).map (fun i => BitVec.ofNat 8 (Config.free (s.free + i))), { s with free := s.free + n })

/-- An area of the accumulator image (R159): the cells of one physical array, S then E. -/
def areaBytes (a : Arr) : Bytes :=
  (dense Cell.zero a.cells 0 16384).flatMap (fun c => natLe 4 c.s.toNat ++ natLe 4 c.e.toNat)

/-- The flag line (R160). -/
def flagLine (c : Core) (duo : Bool) : Bytes :=
  (List.range 4).map (fun a => BitVec.ofNat 8 (if duo && a % 2 == 1 then 0 else (c.arr a).flags.code)) ++ natLe 1 (b2n duo) ++ zeros 59

/-- Write a core's accumulator image, and zeros in the areas of its block that no row names (R311). -/
def saveImage (s : State) (k obj off : Nat) : State :=
  let c := s.core k
  let s1 := (List.range 4).foldl (fun (s : State) a => objWriteP s obj (off + 0x20000 * a) (areaBytes (c.arr a)) []) s
  let s2 := objWriteP s1 obj (off + 0x80000) (flagLine c (s.duoOf k) ++ zeros 0xFC0) []
  objWriteP s2 obj (off + 0x107000) (zeros 0x9000) []

/-- The slots of a core that the OPE or the VE produced and that are VALID, in ring and slot order, each with its place in
the content area (R258, R315; log 29). -/
def madeSlots (rings : List Ring) : List (Nat × Nat × Nat) :=
  (rings.zipIdx.foldl (fun (a : List (Nat × Nat × Nat) × Nat) r =>
    r.1.slots.zipIdx.foldl (fun (a : List (Nat × Nat × Nat) × Nat) y =>
      if y.1.st = .valid ∧ y.1.src = .made then (a.1 ++ [(r.2, y.2, a.2)], a.2 + 64 * r.1.geom.slotLines) else a) a) ([], 0)).1

def saveSlots (s : State) (k obj off : Nat) : State :=
  let c := s.core k
  (madeSlots c.cx.rings).foldl (fun (s : State) m =>
    let g := (c.ring m.1).geom
    objWriteP s obj (off + 0x87000 + m.2.2) (Mem.bytes c.hw.tstore (g.line m.2.1 * 64) (64 * g.slotLines))
      (tsBad c.hw (g.line m.2.1) g.slotLines)) s

/-! ### Switch-out -/

/-- Every sum in flight lands (R110), but in a halted cluster (R56); every slot that is being reloaded takes the content that the
save area still holds, which a new save keeps (R258, R315). -/
def landAll (s0 : State) (k : Nat) : State :=
  let d := (s0.core k).die
  let j := (s0.core k).cluster
  let held := s0.haltedAt k
  let s := if held then s0.setCluster d j { s0.cluster d j with halted := false } else s0
  let s1 := if held then s else (s.core k).cx.flights.foldl (fun (s : State) f => landSum s k f.arr) s
  let t := (s1.core k).hw.ops.foldl (fun (s : State) o => match o.kind with
    | .reload _ _ _ _ => completeOp s k o.id []
    | _ => s) s1
  if held then t.setCluster d j { t.cluster d j with halted := true } else t

/-- Whether an operation can still complete: it is not refused, and its queue pair is not in error (R265, R371). -/
def canEnd (s : State) (o : TeOp) : Bool :=
  !o.refused && (match o.kind with
    | .put _ _ p qpn => (match s.qp p qpn with | some q => !q.error | none => false)
    | _ => true)

/-- Operations of a context on a core that the switch waits for. -/
def openOps (s : State) (k ctx : Nat) : List TeOp :=
  (s.core k).hw.ops.filter (fun o => o.ctx == ctx && canEnd s o && (match o.kind with | .late _ _ => false | _ => !o.dead))

/-- Completions that an operation takes: a multicast one for each member (R256). -/
def TeOpKind.ends : TeOpKind → Nat
  | .mcast _ cores _ => Nat.max 1 cores.length
  | _ => 1

/-- The issued operations of a context complete as far as they can (R258, R316 step 3). -/
def drainOps (s : State) (p ctx : Nat) : State :=
  (s.partCores p).foldl (fun (s : State) k =>
    (openOps s k ctx).foldl (fun (s : State) o =>
      let c := s.core k
      let s1 := (opRuns c o).foldl (fun (s : State) r =>
        (granVas r.1 r.2).foldl (fun (s : State) v => (xlTouch s c.die c.cluster ctx v).2) s) s
      (List.range o.kind.ends).foldl (fun (s : State) _ => completeOp s k o.id []) (s1.onOp k o.id (fun x => { x with waits := none }))) s) s

/-- Whether any operation that the switch waits for is outstanding. -/
def drained (s : State) (p ctx : Nat) : Bool := (s.partCores p).all (fun k => (openOps s k ctx).isEmpty)

/-- Cached counters go back to their table (R211); a refused write-back is reported (R210). Answers whether all went. -/
def flushCtrs (s : State) (k ctx : Nat) : Bool × State :=
  let c := s.core k
  c.hw.ctrs.foldl (fun (a : Bool × State) x =>
    let va := ctrVa a.2 ctx c.lcore x.id
    match locateRun a.2 ctx va 8 .write false with
    | some (v, .refused kind) => (false, refuse a.2 k 0 v kind)
    | _ => (a.1, wrVa (xlTouch a.2 c.die c.cluster ctx va).2 c.cluster ctx va (natLe 8 x.val) [] false)) (true, s)

def CoreRegs.caps (r : CoreRegs) : Caps :=
  ⟨r.stop, r.check, r.ixOob, r.ixPoison, r.timeout, r.unfenced, r.sunk, r.sat, r.misses⟩
def CoreRegs.load (r : CoreRegs) (c : Caps) : CoreRegs :=
  { r with
    stop := c.stop, check := c.check, ixOob := c.ixOob, ixPoison := c.ixPoison, timeout := c.timeout, unfenced := c.unfenced
    sunk := c.sunk, sat := c.sat, misses := c.misses }

/-- A queue as it is saved (R219, R231): a wait keeps its count of polls, and its schedule starts anew. -/
def Eng.saved (x : Eng) : Eng :=
  { x with filling := none, wait := x.wait.map (fun w => { w.restart with inFlight := false }) }

/-- A bank as it is saved (R110, R111): its slots and its tag, which one still LOADING takes from its first slot; it is loaded
again before the next step. -/
def Bank.saved (c : Core) (b : Bank) : Bank :=
  if b.st = .empty then b else
  { b with
    st := .loading, back := true, tiles := []
    tag := match b.st, b.back, b.slots with
      | .loading, false, i :: _ => (nth .empty (c.ring b.ring).slots i).tag
      | _, _, _ => b.tag }

/-- What a core saves (R110, R192, R231, R258, R312, R313). -/
def Core.toSave (c : Core) (ctx : Nat) : CoreCtx :=
  { c.cx with
    cc := { c.cx.cc with quiesceReq := false, quiesced := false, boundary := false, waitWords := false, stalled := false }
    ope := c.cx.ope.saved, ve := c.cx.ve.saved, te := c.cx.te.saved
    arrs := c.cx.arrs.map (fun a => { a with cells := [], flags := .none, b0 := a.b0.saved c, b1 := a.b1.saved c })
    run := c.cx.run.map (fun r => { r with quarter := 0 })
    gens := ⟨0, []⟩, caps := c.hw.regs.caps
    stuck := c.cx.stuck ++ c.hw.ops.filter (fun o => o.ctx == ctx && !o.dead && (match o.kind with | .late _ _ => false | _ => true)) }

/-- A core that serves no context: what stays with it stays, with it the cells and the live flags of its arrays, which only
a load, a clear or a reset changes (R159, R166, R479), and the counts of late signals and of its translation cache (R211;
log 40). -/
def Core.leave (c : Core) (ctx : Nat) : Core :=
  { c with
    cx := { CoreCtx.init with arrs := c.cx.arrs.map (fun a => { Arr.empty with cells := a.cells, flags := a.flags }) }
    ctx := none
    hw := { c.hw with
      ctrs := [], descs := [], writes := []
      ops := c.hw.ops.filter (fun o => o.ctx != ctx || o.dead || (match o.kind with | .late _ _ => true | _ => false))
      regs := c.hw.regs.load { Caps.init with sunk := c.hw.regs.sunk, sat := c.hw.regs.sat, misses := c.hw.regs.misses } } }

/-- Steps 1 to 4 of the switch sequence on one core (R316): answers what is saved and whether every counter went back. -/
def saveCore (s : State) (k ctx : Nat) : CoreCtx × Bool × State :=
  let x := s.ctx ctx
  let (obj, off) := x.block (s.core k).lcore
  let s1 := writeBack (landAll s k) k
  let (ok, s2) := flushCtrs s1 k ctx
  let s3 := saveImage s2 k obj off
  let (bs, s4) := freeBytes s3 0x6000
  let s5 := saveSlots (objWriteP s4 obj (off + 0x81000) bs []) k obj off
  ((s5.core k).toSave ctx, ok, s5)

/-- A partition's resident context leaves it: the cores are free. -/
def detach (s : State) (p ctx : Nat) : State :=
  let s1 := (s.partCores p).foldl (fun (s : State) k => s.onC k (fun c => c.leave ctx)) s
  s1.setPart p { s1.part p with resident := none, barriers := List.replicate 16 .empty, forced := false }

/-- The outgoing context is saved on every core and leaves (R316): STOPPED, RETAINED after the expiry of its lease (R458),
or ABORTED when a counter could not be written back (R210). -/
def switchOut (s : State) (p ctx : Nat) : State :=
  let (saved, ok, s1) := (s.partCores p).foldl (fun (a : SMap CoreCtx × Bool × State) k =>
    let (c, ok, s1) := saveCore a.2.2 k ctx
    (put a.1 (s1.core k).lcore c, a.2.1 && ok, s1)) ([], true, s)
  let bars := (s1.part p).barriers
  let s2 := detach s1 p ctx
  let x := s2.ctx ctx
  if !ok then setCtxSt (s2.setCtx ctx { x with saved := [], savedBars := [], fp := [], leaseQuiesce := none }) ctx .aborted 1
  else
    let s3 := s2.setCtx ctx { x with saved := saved, savedBars := bars, fp := [], leaseQuiesce := none }
    if x.leaseQuiesce.isSome then setCtxSt s3 ctx .retained 2 else setCtxSt s3 ctx .stopped 0

/-! ### Abort (R475, R476) -/

/-- The packets of the context's operations not yet on the wire are cancelled, its queue pairs enter the error state, its
collective contexts close (R475 step 4, R319 step 3). -/
def endPorts (s : State) (ctx : Nat) : State :=
  let x := s.ctx ctx
  let s1 := x.qps.foldl (fun (s : State) q => qpError s q.2.1 q.2.2) s
  x.colls.foldl (fun (s : State) c => closeColl s c.2.1 c.2.2) s1

/-- Change the keys of a context. -/
def onKeys (s : State) (ctx : Nat) (f : Key → Key) : State :=
  { s with keys := mapAll s.keys (fun _ k => if k.owner = .ctx ctx then f k else k) }

/-- Whether another operation of a scatter without ADD will store a row in a tile column with a higher rank (R201). -/
def beats (order row col pos : Nat) (x : TeOp) (ctx seq : Nat) : Bool :=
  x.ctx == ctx && x.seq == seq && match x.kind, x.src with
    | .scatter _ _ rows _, .gather _ _ _ q _ col' => col' == col && q != pos && rows.any (fun y => y.1 == some row) && !outranks order row pos (some q)
    | _, _ => false

/-- Operations issued before the abort run on (R476): a fill is discarded, a store keeps its own bytes. One that was refused, or
a TPUT with packets on the wire of its queue pair, never completes (R265, R371); a TPUT not yet on the wire is cancelled. -/
def abortOps (s : State) (k ctx : Nat) : State :=
  let c := s.core k
  c.hw.ops.foldl (fun (s : State) o =>
    if o.ctx ≠ ctx then s else
    let drop := fun (s : State) => s.onHw k (fun h => { h with ops := h.ops.filter (fun x => x.id != o.id) })
    if o.refused then s.onOp k o.id (fun x => { x with dead := true }) else
    match o.kind with
    | .put _ _ p qpn =>
      (match s.qp p qpn with
      | some q => if q.unacked.any (fun x => x.onWire && x.core == k && x.op == o.id) then s.onOp k o.id (fun x => { x with dead := true }) else drop s
      | none => drop s)
    | .store r i =>
      (match o.src with
      | .walk d base cur =>
        let y := nth .empty (c.ring r).slots i
        let (h, w) := storeShape d y cur
        s.onOp k o.id (fun x => { x with kind := .late (storeList (c.tile r i) (walkRuns d base cur h w)) none })
      | _ => drop s)
    | .scatter r i rows add =>
      (match o.src with
      | .gather d _ base pos _ col =>
        let t := c.tile r i
        let go := match c.cx.begun.find? (fun u => u.seq == o.seq && !add) with
          | some u => rows.map (fun q => match q.1 with
            | some v => if outranks u.order v pos (look u.landed (landKey col v)) && !c.hw.ops.any (fun x => beats u.order v col pos x o.ctx o.seq)
                then q else (none, q.2)
            | none => q)
          | none => rows
        s.onOp k o.id (fun x => { x with
          kind := .late (storeList t (gatherRuns d base col (Nat.min 128 (d.dim0 - 128 * col)) go)) (if add then some t.fmt else none) })
      | _ => drop s)
    | _ => s.onOp k o.id (fun x => { x with dead := true })) s

/-- SIGNALs of a TE queue that wait only for operations issued: everything before them is complete, issued to the last unit, a
FENCE or a signal (R322). -/
def Core.lateSignals (c : Core) : Nat :=
  let gone := fun (n : QEntry) => n.st == .done || [0x10, 0x11, 0x14].contains (opcode n.word)
    || c.cx.begun.any (fun t => t.seq == n.seq && t.issuedAll)
  ((c.cx.te.q.takeWhile gone).filter (fun n => n.st != .done && opcode n.word == 0x10)).length

/-- Late signals go to the sink (R211): a SIGNAL that waits for a fill is dropped and counted at once, one behind issued operations
of the TE when the last of them has completed (R322). -/
def sinkSignals (s : State) (k ctx : Nat) : State :=
  let c := s.core k
  let n := ([c.cx.ope, c.cx.ve, c.cx.te].filter (fun e => e.filling.isSome && (match e.next with
    | some q => opcode q.word == 0x10
    | none => false))).length
  let late := if c.hw.ops.any (fun o => o.ctx == ctx && !o.dead) then c.lateSignals else 0
  (s.regs k (fun r => { r with sunk := hold 24 r.sunk n })).onHw k (fun h =>
    { h with lateSigs := if late = 0 then h.lateSigs else put h.lateSigs ctx late })

/-- Whether a context's partition is under L2. -/
def underL2 (s : State) (ctx : Nat) : Bool :=
  let p := (s.ctx ctx).part
  s.due.contains (.l2 (p / 8) (p % 8))

/-- Whether a context's partition is under L2 with the context resident on it. -/
def l2On (s : State) (ctx : Nat) : Bool := (s.part (s.ctx ctx).part).resident == some ctx && underL2 s ctx

/-- L0 (R475): the context's state is written to its save area for reading only, its ports end, and it is ABORTED; the
partition is free. For a context that is not resident only step 4 and 5 find something to do. -/
def abortCtx (s : State) (ctx cause : Nat) : State :=
  let p := (s.ctx ctx).part
  let s1 := if (s.part p).resident = some ctx then
      let t := (s.partCores p).foldl (fun (s : State) k =>
        let s1 := abortOps (sinkSignals s k ctx) k ctx
        let (obj, off) := (s1.ctx ctx).block (s1.core k).lcore
        let s2 := saveImage (landAll s1 k) k obj off
        let (bs, s3) := freeBytes s2 0x6000
        saveSlots (objWriteP s3 obj (off + 0x81000) bs []) k obj off) s
      detach t p ctx
    else s
  let s2 := onKeys (endPorts s1 ctx) ctx (fun k => { k with wr := false, at_ := false })
  let s3 := dropAdds s2 ctx
  let x := s3.ctx ctx
  setCtxSt (s3.setCtx ctx { x with saved := [], savedBars := [], fp := [], leaseQuiesce := none }) ctx .aborted cause

/-! ### Switch-in -/

/-- Cells of an area of the image, from the bytes that are not 0, and whether a line of it is poisoned (R162, R163). -/
def loadArea (s : State) (obj off : Nat) : SMap Cell × Bool :=
  [0, 1].foldl (fun (a : SMap Cell × Bool) g =>
    match objAt s obj (off + 65536 * g) .read with
    | .at_ pa _ _ =>
      let js := (((s.mem.filter (fun c => decide (pa ≤ c.1) && decide (c.1 < pa + 65536))).map (fun c => (c.1 - pa) / 8))).eraseDups
      let cells := js.map (fun j => (8192 * g + j,
        (⟨BitVec.ofNat 32 (leNat (Mem.bytes s.mem (pa + 8 * j) 4)), BitVec.ofNat 32 (leNat (Mem.bytes s.mem (pa + 8 * j + 4) 4))⟩ : Cell)))
      (a.1 ++ cells, a.2 || s.fenced (bits pa 44 42) || s.bad.any (fun b => b.2 && decide (pa / 64 ≤ b.1) && decide (b.1 < pa / 64 + 1024)))
    | .lost => (a.1, true)
    | _ => a) ([], false)

/-- The arrays with their cells and flags from the image (R162). A poisoned line taints the tile whose cells it holds: in duo
the fused one, whose flags stand under its lower number (R160, R163). -/
def loadArrs (s : State) (obj off : Nat) (duo : Bool) (arrs : List Arr) : List Arr :=
  let fl := objRead s obj (off + 0x80000) 64
  let all := !(objBad s obj (off + 0x80000) 64).isEmpty
  let got := (List.range 4).map (fun a => loadArea s obj (off + 0x20000 * a))
  arrs.zipIdx.map (fun p =>
    let f := TileFlags.ofCode (field fl p.2 1)
    let bad := fun (a : Nat) => (nth ([], false) got a).2
    { p.1 with
      cells := (nth ([], false) got p.2).1
      flags := { f with taint := f.taint || (!(duo && p.2 % 2 == 1) && (bad p.2 || (duo && bad (p.2 + 1)) || all)) } })

/-- The slots that the OPE and the VE had produced are FILLING until they are reloaded from the save area (R259, R315; each
reload is an operation, log 75). -/
def loadSlots (s : State) (k ctx obj off : Nat) : State :=
  (madeSlots (s.core k).cx.rings).foldl (fun (s : State) m =>
    (s.onRing k m.1 (fun x => x.onSlot m.2.1 (fun z => { z with st := .filling }))).onHw k (fun h => { h with
      ops := h.ops ++ [⟨h.nextOp, ctx, 2 ^ 64, .reload m.1 m.2.1 obj (off + 0x87000 + m.2.2), .made, false, none, [], false, false⟩]
      nextOp := h.nextOp + 1 })) s

/-- The memory-filled slots of a ring table that are VALID. -/
def filledSlots (rings : List Ring) : List (Nat × Nat) :=
  rings.zipIdx.flatMap (fun r => (r.1.slots.zipIdx.filter (fun y => y.1.st == .valid && y.1.src != .made)).map (fun y => (r.2, y.2)))

/-- A memory-filled slot is FILLING again until its refill completes (R259), one whose refill a reset aborted too (R480). -/
def refillSlots (s : State) (k : Nat) : State :=
  let l := filledSlots (s.core k).cx.rings
  let s1 := ((s.core k).cx.refills ++ l).foldl (fun (s : State) x => s.onRing k x.1 (fun y => y.onSlot x.2 (fun z => { z with st := .filling }))) s
  let s2 := s1.onCx k (fun x => { x with refills := x.refills ++ l })
  issueRefills (s2.core k).cx.refills.length s2 k

/-- What keeps a switch-in from resuming its context (R529). -/
inductive Bar
  | grouping
  | poison (lc at_ : Nat)
  | refused (lc va kind : Nat)
  deriving DecidableEq, Repr

/-- What the first bad line of a table that the switch-in reads does. -/
def barTable (s : State) (ctx lc va n : Nat) : Option Bar :=
  (linesOf va n).findSome? (fun l =>
    let v := Nat.max va (64 * l)
    match locate s ctx v .read false with
    | .refused kind => some (.refused lc v kind)
    | .at_ pa _ _ => if (rdPhys s pa 1).2 then some (.poison lc (64 * l)) else none
    | .lost => some (.poison lc (64 * l))
    | .waits _ _ => none)

/-- The rings of a core whose entries a switch-in takes anew: those that are empty in the state it restores, and that no multicast
to be issued again fills (R247, R480, R530). -/
def idleRings (x : Ctx) (k lc : Nat) : List Nat :=
  let again := x.saved.flatMap (fun q => q.2.stuck.filterMap (fun o => match o.kind with
    | .mcast r cores _ => if cores.any (fun c => c.1 == k) then some r else none
    | _ => none))
  (List.range 32).filter (fun r => !again.contains r && Core.ringIdle { Core.init with cx := (look x.saved lc).getD .init } r)

/-- The first thing that keeps a switch-in from resuming (R162, R318, R529). A block that CREATE has zeroed holds grouping 0: on a
partition in duo grouping the host writes byte 4 of it before the first switch-in (R164; log 30). Of the counter tables, which fill the cache on use (R209, R211), it
reads the counters that the restored waits name (log 79). -/
def barOf (s : State) (p ctx : Nat) : Option Bar :=
  let x := s.ctx ctx
  let y := s.part p
  let n := 8 * y.clusters
  let lcs := List.range n
  let g := fun (lc : Nat) => field (objRead s (x.block lc).1 ((x.block lc).2 + 0x80004) 1) 0 1
  if lcs.any (fun lc => g lc != b2n y.duo) then some .grouping
  else
    let state := if x.saved.isEmpty then [] else lcs.map (fun lc =>
      match objBad s (x.block lc).1 ((x.block lc).2 + 0x81000) 0x6000 with
      | [] => none
      | l :: _ => some (Bar.poison lc ((x.block lc).2 + 0x81000 + 64 * l)))
    let tabs := if x.ringVa = 0 then [] else lcs.flatMap (fun lc =>
      (idleRings x (68 * (p / 8) + nth 0 y.phys lc) lc).map (fun r => barTable s ctx lc (x.ringVa + 512 * lc + 16 * r) 16))
    let ctrs := lcs.flatMap (fun lc =>
      let y := (look x.saved lc).getD .init
      ([y.ope, y.ve, y.te].filterMap Eng.wait).filterMap (fun w =>
        if w.kind = .counter then some (barTable s ctx lc (ctrVa s ctx lc w.obj) 8) else none))
    ((state ++ [barTable s ctx 0 x.barVa 1024] ++ tabs ++ ctrs).filterMap id).head?

/-- Spare-ins that wait for a switch-in on the partition (R503, R505): a PENDING core whose pair's spare is free. -/
def applySpares (s : State) (p : Nat) : State :=
  let y := s.part p
  let mine := fun (e : MapEntry) => e.kind == 1 && e.die == p / 8 && e.st == 0 && (match homeCluster e.unit with
    | some k => decide (p % 8 ≤ k) && decide (k < p % 8 + y.clusters)
    | none => false)
  let s1 := (s.maps.filter mine).foldl (fun (s : State) e =>
    if s.spareUsed e.die (pairOf e.unit) then s else mapSet s { e with st := 1 }) s
  let z := s1.part p
  s1.setPart p { z with spareDue := none, phys := if z.resident.isNone then s1.choose (p / 8) (p % 8) z.clusters else z.phys }

/-- The barrier records (R225), with the G and R that were saved (R231). -/
def loadBars (s : State) (ctx : Nat) : List Barrier :=
  let x := s.ctx ctx
  let b := (rdVa s (s.home ctx) ctx x.barVa 1024 false).1
  (List.range 16).map (fun i =>
    let r := slice b (64 * i) 64
    let old := nth .empty x.savedBars i
    ⟨field r 0 8, bit (field r 8 1) 7, field r 8 1 % 4, field r 0x10 8, old.r, old.g, old.stalled⟩)

/-- Restore one core (R111, R162, R192, R231, R258, R259, R314): lanes seeded by R138, ring entries by R530, then the CC
reads its header (R171). Operations of the context that never complete stand among the 48 as far as the TE has room beside those
of others (R257, R476); fills that a reset aborted wait for their commands (R480). -/
def loadCore (s : State) (p ctx k lc : Nat) : State :=
  let x := s.ctx ctx
  let (obj, off) := x.block lc
  let old := look x.saved lc
  let cx := old.getD .init
  let room := 48 - (s.core k).teOps
  let back := cx.stuck.filter (fun o => !o.again)
  let now := back.take room
  let cx1 := { cx with
    arrs := loadArrs s obj off (s.part p).duo cx.arrs, gens := ⟨Gens.wordOf x.seed x.ins, []⟩, check := x.check, stuck := cx.stuck.filter TeOp.again ++ back.drop room }
  let s1 := s.onC k (fun c => { c with
    cx := cx1, ctx := some ctx, part := p, lcore := lc
    hw := { c.hw with
      ctrs := [], descs := [], writes := [], regs := c.hw.regs.load cx.caps
      ops := c.hw.ops ++ now.zipIdx.map (fun o => { o.1 with id := c.hw.nextOp + o.2 }), nextOp := c.hw.nextOp + now.length } })
  let tab := if x.ringVa = 0 then x.stream else parseTable (rdVa s1 (s1.core k).cluster ctx (x.ringVa + 512 * lc) 512 false).1
  let s2 := takeEntries s1 k (idleRings x k lc) tab
  let s3 := refillSlots (loadSlots s2 k ctx obj off) k
  loadHeader s3 k (x.cmdRings + 64 * lc)

/-- Steps 5 to 7 of the switch sequence (R314, R316), or what R529 does instead. Answers the status. A restore after a
reset (R479) raises no CTX_STATE event: the context was RESIDENT and is so again. -/
def switchIn (s : State) (p ctx : Nat) (event : Bool) : Nat × State :=
  let s0 := applySpares s p
  let y := s0.part p
  let s1 := (List.range (8 * y.clusters)).foldl (fun (s : State) lc =>
      let (obj, off) := (s.ctx ctx).block lc
      meetObj s ctx obj off 0x90000) (s0.setPart p { y with phys := s0.choose (p / 8) (p % 8) y.clusters })
  match barOf s1 p ctx with
  | some .grouping => (stState, s1)
  | some (.poison lc a) =>
    (stState, abortCtx (report s1 { Fault64.blank with
      ctx := ctx, cls := 5, sev := 1, die := p / 8, unit := 1, index := nth 0 (s1.part p).phys lc, whereAt := a, lcore := lc }) ctx 1)
  | some (.refused lc va kind) =>
    (stState, abortCtx (refuseUnit s1 (p / 8) (p % 8 + lc / 8) ctx lc va kind) ctx 1)
  | none =>
    let x := s1.ctx ctx
    let (ck, sw) := x.next.getD (x.check, x.stallWin)
    let s2 := s1.setCtx ctx { x with ins := x.ins + 1, check := ck, stallWin := sw, next := none, fp := [] }
    let s3 := s2.setPart p { s2.part p with resident := some ctx, barriers := loadBars s2 ctx }
    let s4 := if event then setCtxSt s3 ctx .resident 0 else s3
    let s5 := (s4.part p).phys.zipIdx.foldl (fun (s : State) c => loadCore s p ctx (68 * (p / 8) + c.1) c.2) s4
    (stOk, s5.setCtx ctx { s5.ctx ctx with saved := [], savedBars := [] })

/-! ### The switch (R310, R316, R317) -/

/-- Whether the resident context may go under a MODE (R310): at once; quiesced at a STEP mark with its queues retired
(R190); idle (R170). A context whose lease has run out goes at its STEP mark (R458). -/
def mayGo (s : State) (p asked : Nat) : Bool :=
  let lease := match (s.part p).resident with | some c => (s.ctx c).leaseQuiesce.isSome | none => false
  let mode := if lease && asked == 2 then 1 else asked
  (s.partCores p).all (fun k =>
    let c := s.core k
    match mode with
    | 0 => true
    | 1 => c.cx.cc.quiesced && c.cx.ope.q.isEmpty && c.cx.ve.q.isEmpty && c.cx.te.q.isEmpty
    | _ => c.ccIdle)

/-- Count a switch (R323). -/
def countSwitch (s : State) (p last drain : Nat) : State :=
  let y := s.part p
  s.setPart p { y with count := hold 32 y.count 1, last := Nat.min 0xFFFF last, drain := Nat.min 0xFFFF drain }

/-- Whether a cluster of a partition is halted: none of its handshakes moves, and nothing of it is switched (R56). -/
def partHalted (s : State) (p : Nat) : Bool := (s.partCores p).any s.haltedAt

/-- The switch that a partition waits for is made: out, when the issued operations have completed, and in. Until then it has
begun and the cores take no new work and start no operation (R258, R316 step 2). A context under teardown is not switched out:
the switch waits until it has gone (R319), or until a halted cluster is released (R56), and while CC-M0 restarts (R450). -/
def doSwitch (s : State) (p last drain : Nat) : State :=
  match (s.part p).sw with
  | none => s
  | some w =>
    if partHalted s p || (match (s.part p).resident with | some old => (s.ctx old).st != CtxSt.resident | none => false) then s else
    let s1 := match (s.part p).resident with
      | some old => drainOps (s.setPart p { s.part p with sw := some { w with begun := true } }) p old
      | none => s
    if (match (s1.part p).resident with | some old => !drained s1 p old | none => false) || !roleUp s1 (p / 8) 0 then
      s1 else
    let s2 := match (s1.part p).resident with
      | some old => switchOut s1 p old
      | none => s1
    let s3 := s2.setPart p { s2.part p with sw := none }
    match w.ctx with
    | none => countSwitch s3 p last drain
    | some c =>
      if (s3.ctx c).st ≠ .stopped then done_ s3 w.uid stState
      else
        let (st, s4) := switchIn s3 p c true
        done_ (if st = stOk then countSwitch s4 p last drain else s4) w.uid st

/-- R316: CONTEXT_SWITCH, when a switch waits and its MODE allows it. -/
def execContextSwitch (d first : Nat) (last drain : Nat) (s : State) : Res :=
  onUnit d first 8 s (fun s =>
    let p := 8 * d + first
    if !s.hasPart p || (s.part p).st != .inService then s else
    match (s.part p).sw with
    | none => s
    | some w => if (s.part p).resident.isSome && !w.begun && !mayGo s p w.mode then s else doSwitch s p last drain)

/-- R504: 60 s after a spare-in was scheduled the resident context goes out and back in; how long that takes is free. -/
def execSpareForcedSwitch (d first : Nat) (s : State) : Res :=
  onUnit d first 8 s (fun s =>
    let p := 8 * d + first
    match (s.part p).spareDue, (s.part p).resident with
    | some t, some c =>
      if (s.part p).st ≠ .inService ∨ (s.die d).time < t + 1500000000 ∨ (s.ctx c).st ≠ .resident ∨ partHalted s p then s else
      let s1 := drainOps (s.setPart p { s.part p with forced := true }) p c
      if !drained s1 p c || !roleUp s1 d 0 then s1 else
      let s2 := switchOut s1 p c
      if (s2.ctx c).st ≠ .stopped then s2 else
      let (st, s3) := switchIn s2 p c true
      if st = stOk then
        let (a, s4) := s3.fresh
        let (b, s5) := s4.fresh
        countSwitch s5 p a b
      else s3
    | _, _ => s)

end Sys2Proof.Machine
end

