-- ==== Sys2Proof/Machine/Contexts.lean ====
section
/-! DEFINITION. Trellis images and their apply (R293 to R305, R534), the context requests (R306 to R310, R532), teardown
(R319 to R322), and the completion of TE operations, which a quiesce may wait for. -/

set_option autoImplicit false

namespace Sys2Proof.Machine

/-! ### Requests about contexts (R306 to R310, R444, R532) -/

/-- Collective packets of a context's rounds that a pause holds at a port. -/
def Port.holdsFor (x : Port) (ctx : Nat) : Bool :=
  x.waiting.any (fun w => match w.2.2 with
    | .coll _ _ _ k => k.type == 0x12 && x.colls.any (fun c => c.2.ctx == ctx && c.2.job == k.job)
    | _ => false)

/-- Inbound requests of a context that a port has taken and not finished: what waits behind a granule (R369), and a WRITE
message accepted in part (R322). -/
def Port.inbound (x : Port) (ctx : Nat) : Nat :=
  (x.qps.map (fun q => if q.2.owner = .ctx ctx ∧ q.2.live then q.2.held.length + b2n q.2.mid else 0)).sum

/-- Racking operations of a context (R276, R320): requests of its own that wait at objects, and the operations of a work that
serves it. -/
def Obj.opsFor (o : Obj) (ctx : Nat) : Nat :=
  (o.queue.filter (fun r => r.ctx == ctx && (r.kind == .promote || r.kind == .demote))).length
    + (if (o.work = some .promote ∨ o.work = some .demote) ∧ o.serves = ctx then o.live.length + o.todo.length else 0)

/-- Operations issued for a context and not complete (R320): those of the TEs, refused ones and TPUTs of a queue pair in error
among them, writes that a translation unit holds, those of racking engines and of ports. -/
def outstanding (s : State) (ctx : Nat) : Nat :=
  (s.cores.map (fun p => ((p.2.hw.ops ++ p.2.cx.stuck).filter (fun o => o.ctx == ctx)).length)).sum
    + ((s.ctx ctx).saved.map (fun p => p.2.stuck.length)).sum
    + (s.owed.filter (fun w => w.ctx == ctx)).length
    + (s.objs.map (fun p => p.2.opsFor ctx)).sum
    + (s.ports.map (fun p => b2n (p.2.holdsFor ctx) + p.2.inbound ctx)).sum

/-- The window table of a context, as it stands in the firmware area (R262): sorted by BASE. -/
def Ctx.table (x : Ctx) : Bytes := x.windows.flatMap Window.entry

/-- The context record (R308). -/
def Ctx.record (i : Nat) (x : Ctx) (out : Nat) : Bytes :=
  natLe 2 i ++ natLe 1 x.st.code ++ natLe 1 x.part ++ natLe 1 (b2n x.check + 2 * b2n x.duo) ++ zeros 3
    ++ natLe 8 x.seed ++ natLe 8 x.ins ++ natLe 4 x.stallWin ++ natLe 4 x.sess ++ natLe 8 x.cmdRings ++ natLe 8 x.descTable
    ++ natLe 2 x.descLen ++ zeros 6 ++ natLe 8 x.counters ++ natLe 8 x.barVa ++ natLe 8 x.ringVa
    ++ natLe 8 (tableAt (i / 1024) (Config.windowTableAt i)) ++ natLe 2 x.windows.length ++ zeros 6 ++ natLe 8 (tableAt (i / 1024) (Config.pinTableAt i)) ++ natLe 8 x.diag
    ++ (List.range 8).flatMap (fun j => natLe 4 (nth 0 x.save j)) ++ natLe 4 out ++ zeros 108

/-- A STALL_WINDOW as a request gives it (R532): 0 takes the default; none where it is out of range. -/
def stallOf (n : Nat) : Option Nat := if n = 0 then some 50000 else if 2500 ≤ n ∧ n ≤ 25000000 then some n else none

/-- The windows of a CTX_CREATE (R262): entries of 32 bytes whose VALID is set. -/
def argWindows (b : Bytes) : List Window :=
  (List.range (b.length / 32)).filterMap (fun i =>
    let e := slice b (32 * i) 32
    let acc := field e 0x14 1
    if bit acc 7 then some ⟨field e 0 8, field e 8 4, field e 0xC 4, field e 0x10 4 % 2 ^ 20, bit acc 0, bit acc 1, bit acc 2⟩ else none)

/-- Whether a table lies in a window of a NEAR_PIN object mapped READ and WRITE (R308). -/
def inNear (s : State) (ws : List Window) (va n : Nat) : Bool :=
  ws.any (fun w => w.rd && w.wr && decide (w.base ≤ va) && decide (va + n ≤ w.base + w.granules * 65536)
    && (match s.obj w.obj with | some o => o.policy == 0 | none => false))

/-- A save object that R311 admits for the j-th cluster of a partition. -/
def saveOk (s : State) (p j i : Nat) : Bool :=
  match s.obj i with
  | some o => decide (i / 2 ^ 17 = p / 8) && o.policy == 0 && o.granules == 136 && o.clusters == 2 ^ (p % 8 + j)
  | none => false

/-- The first logical core and ring whose table entry breaks R240. -/
def badTable (s : State) (p ctx ringVa : Nat) : Option (Nat × Nat) :=
  ((List.range (8 * (s.part p).clusters)).filterMap (fun lc =>
    let gs := if ringVa = 0 then (s.ctx ctx).stream else parseTable (rdVa s (s.home ctx) ctx (ringVa + 512 * lc) 512 false).1
    (tableFault gs (s.groupHas p lc)).map (fun r => (lc, r)))).head?

/-- Make a context from its arguments (R308, R532; log 28 gives the places of the fields). -/
def argCtx (b : Bytes) (sess duo clusters : Nat) : Ctx :=
  { Ctx.init with
    st := .stopped, part := field b 0 1, check := bit (field b 1 1) 0, duo := duo = 1, clusters := clusters, seed := field b 8 8
    stallWin := (stallOf (field b 16 4)).getD 50000, sess := sess, cmdRings := field b 24 8, descTable := field b 32 8
    descLen := field b 40 4, counters := field b 48 8, barVa := field b 56 8, ringVa := field b 64 8, diag := field b 72 8
    save := (List.range 8).map (fun j => field b (80 + 4 * j) 4) }

/-- The die's hang window: the largest stall window of its contexts, never below 2 ms (R469). -/
def hangWindow (s : State) (d : Nat) : State :=
  let ws := (s.ctxs.filter (fun c => c.1 / 1024 == d)).map (fun c => Nat.max c.2.stallWin ((c.2.next.map Prod.snd).getD 0))
  s.setDie d { s.die d with hangWin := ws.foldl Nat.max 50000 }

/-- R240, R306, R308, R309, R311, R532. -/
def execCtxCreate (n : Nat) (s : State) : Res :=
  onReq s n 0x0201 (fun t s =>
    let b := t.fields
    let p := field b 0 1
    if !s.hasPart p || (s.part p).st == .fenced then complete s t.uid stNoPartition [] else
    match leastFree s.ctxs (1024 * (p / 8)) 1024 with
    | none => complete s t.uid stNoContext []
    | some i =>
      let y := s.part p
      let x := { argCtx b t.sess (b2n y.duo) y.clusters with stream := y.stream }
      let ws := argWindows (b.drop 112)
      let cores := 8 * y.clusters
      let sorted := (List.range ws.length).all (fun j => j == 0
        || (let a := nth ⟨0, 0, 0, 0, false, false, false⟩ ws (j - 1)
            decide (a.base + a.granules * 65536 ≤ (nth ⟨0, 0, 0, 0, false, false, false⟩ ws j).base)))
      let tables := [(x.cmdRings, 64 * cores), (x.descTable, 64 * x.descLen), (x.counters, 8192 * cores), (x.barVa, 1024), (x.diag, 65536)]
        ++ (if x.ringVa = 0 then [] else [(x.ringVa, 512 * cores)])
      if (stallOf (field b 16 4)).isNone || x.descLen == 0 || decide (4096 < x.descLen) || decide (4096 < ws.length) || !sorted
        || ws.any (fun w => !windowOk s w) || tables.any (fun v => !inNear s ws v.1 v.2)
        || (List.range y.clusters).any (fun j => !saveOk s p j (nth 0 x.save j)) then complete s t.uid stLimit []
      else
        let s1 := ws.foldl (fun (s : State) w => addWindow s i w) (s.setCtx i x)
        match badTable s1 p i x.ringVa with
        | some (lc, r) => complete s t.uid stLimit (natLe 1 lc ++ natLe 1 r)
        | none =>
          let s2 := wrVa s1 (s1.home i) i x.counters (zeros (8192 * cores)) [] false
          complete (ctxEvent (hangWindow s2 (i / 1024)) i 0) t.uid stOk (natLe 2 i))

/-- The cores of a partition are asked to quiesce at their next STEP mark, or no longer (R190). -/
def askQuiesce (s : State) (p : Nat) (on : Bool) : State :=
  (s.partCores p).foldl (fun (s : State) k => s.onCC k (fun x => { x with quiesceReq := on, quiesced := x.quiesced && on })) s

/-- The context of a partition that is quiescing after its lease ran out (R458). -/
def leaving (s : State) (p : Nat) : Bool := match (s.part p).resident with
  | some c => (s.ctx c).leaseQuiesce.isSome
  | none => false

/-- R309, R310, R532. A request for a partition whose switch has begun waits until that has ended. -/
def execCtxSchedule (n : Nat) (s : State) : Res :=
  onReq s n 0x0202 (fun t s =>
    let p := field t.fields 0 1
    let c := field t.fields 2 2
    let mode := field t.fields 4 1
    if (look s.ctxs c).isSome && s.fenced (c / 1024) then complete s t.uid stNotFound []
    else if !s.hasPart p then complete s t.uid stNoPartition []
    else if 2 < mode then complete s t.uid stLimit []
    else if (s.ctx c).st ≠ .stopped ∨ (look s.ctxs c).isNone ∨ (s.ctx c).part ≠ p then complete s t.uid stState []
    else if (s.part p).st ≠ .inService then complete s t.uid stBusy []
    else if (s.part p).leaving then s
    else
      let s1 := match (s.part p).sw with
        | some w => done_ s w.uid stBusy
        | none => s
      let s2 := askQuiesce s1 p (mode == 1 || leaving s1 p)
      running (s2.setPart p { s2.part p with sw := some ⟨some c, mode, some t.uid, false⟩ }) t.uid)

/-- R309, R532. -/
def execCtxSet (n : Nat) (s : State) : Res :=
  onReq s n 0x0203 (fun t s =>
    let c := field t.fields 0 2
    if (look s.ctxs c).isSome && s.fenced (c / 1024) then complete s t.uid stNotFound []
    else if !s.ctxNamed c then complete s t.uid stState []
    else match stallOf (field t.fields 4 4) with
      | none => complete s t.uid stLimit []
      | some w => complete (hangWindow (s.setCtx c { s.ctx c with next := some (bit (field t.fields 2 1) 0, w) }) (c / 1024)) t.uid stOk [])

/-- R308, R309. -/
def execCtxQuery (n : Nat) (s : State) : Res :=
  onReq s n 0x0204 (fun t s =>
    let c := field t.fields 0 2
    match look s.ctxs c with
    | none => complete s t.uid stNotFound []
    | some x => if s.fenced (c / 1024) then complete s t.uid stNotFound []
        else result s t (field t.fields 8 8) (x.record c (outstanding s c)))

/-- R221, R444: the named queues that are held go on with their next command. -/
def execQueueRelease (n : Nat) (s : State) : Res :=
  onReq s n 0x0206 (fun t s =>
    let c := field t.fields 0 2
    let lc := field t.fields 2 1
    let m := field t.fields 3 1
    if (look s.ctxs c).isSome && s.fenced (c / 1024) then complete s t.uid stNotFound [] else
    let p := (s.ctx c).part
    match (s.part p).phys[lc]? with
    | none => complete s t.uid stState []
    | some x =>
      let k := 68 * (p / 8) + x
      let hit := [(0, Engine.ope), (1, .ve), (2, .te)].filter (fun e => bit m e.1 && ((s.core k).eng e.2).held)
      if (s.ctx c).st ≠ .resident ∨ (s.part p).resident ≠ some c ∨ hit.isEmpty then complete s t.uid stState []
      else complete (hit.foldl (fun (s : State) e => s.onEng k e.2 (fun q => { q with held := false })) s) t.uid stOk [])

/-- A context that a request takes away while its partition is under L2 is one that the reset aborted (R482). -/
def countCut (s : State) (ctx : Nat) : State :=
  let p := (s.ctx ctx).part
  if l2On s ctx ∧ (s.ctx ctx).st = .resident then s.setPart p { s.part p with aborted := hold 8 (s.part p).aborted 1 } else s

/-- R444, R475: a requested abort is the abort of R475, whose event has CAUSE 1 (log 31). -/
def execCtxAbort (n : Nat) (s : State) : Res :=
  onReq s n 0x0207 (fun t s =>
    let c := field t.fields 0 2
    match look s.ctxs c with
    | none => complete s t.uid stNotFound []
    | some x =>
      if s.fenced (c / 1024) then complete s t.uid stNotFound []
      else if x.st = .free ∨ x.st = .closing ∨ x.st = .aborted then complete s t.uid stState []
      else complete (abortCtx (countCut (s.delDue (.l0 c)) c) c 1) t.uid stOk [])

/-! ### Teardown (R319 to R322) -/

/-- Turn the start of every teardown on a partition into the time it has run, or back: the time of a reset does not count
for it (the case after R322). -/
def flipTeardowns (s : State) (p : Nat) : State :=
  { s with ctxs := mapAll s.ctxs (fun i x => if x.part = p ∧ x.st = .closing then { x with closedAt := (s.die (i / 1024)).time - x.closedAt } else x) }

/-- TPUTs of a context with no packet on the wire are cancelled (R319 step 3). -/
def cancelPuts (s : State) (ctx : Nat) : State :=
  let onWire := fun (k : Nat) (o : TeOp) => match o.kind with
    | .put _ _ p qpn => (match s.qp p qpn with
      | some q => q.unacked.any (fun x => x.onWire && x.core == k && x.op == o.id)
      | none => false)
    | _ => true
  { s with cores := mapAll s.cores (fun k c => { c with hw := { c.hw with ops := c.hw.ops.filter (fun o => o.ctx != ctx || onWire k o) } }) }

/-- Steps 1 to 3: CLOSING; dispatch stops, queued fills are discarded, waits end, the ports end, the keys are revoked. A
MADD that has not been made adds no more (R320). -/
def beginTeardown (s : State) (ctx : Nat) (uid : Option Nat) : State :=
  let p := (s.ctx ctx).part
  let s1 := (s.delDue (.l0 ctx)).setCtx ctx { s.ctx ctx with uid := uid, closedAt := if underL2 s ctx then 0 else (s.die (ctx / 1024)).time, evicted := false }
  let s2 := setCtxSt s1 ctx .closing 0
  let s3 := if (s2.part p).resident = some ctx then
      (s2.partCores p).foldl (fun (s : State) k =>
        [Engine.ope, .ve, .te].foldl (fun (s : State) e => s.onEng k e (fun x => { x with wait := none, filling := none })) (sinkSignals s k ctx)) s2
    else s2
  onKeys (cancelPuts (endPorts (dropAdds s3 ctx) ctx) ctx) ctx (fun k => { k with live := false })

/-- Whether a context takes part in a switch that has begun (R529). -/
def switching (s : State) (ctx : Nat) : Bool :=
  s.parts.any (fun p => p.2.leaving && (p.2.resident == some ctx || (match p.2.sw with | some w => w.ctx == some ctx | none => false)))

/-- R309, R319. One that arrives during a switch of the context waits until that is complete (R529). -/
def execCtxDestroy (n : Nat) (s : State) : Res :=
  onReq s n 0x0205 (fun t s =>
    let c := field t.fields 0 2
    match look s.ctxs c with
    | none => complete s t.uid stState []
    | some x =>
      if s.fenced (c / 1024) then complete s t.uid stOk []
      else if x.st = .free ∨ x.st = .closing then complete s t.uid stState []
      else if switching s c then s
      else beginTeardown (countCut (running s t.uid) c) c (some t.uid))

/-- Pins go through the objects' queues as if the context had sent each EVICT (R286). -/
def evictAll (s : State) (ctx : Nat) : State :=
  (s.ctx ctx).pins.foldl (fun (s : State) p => (List.range p.2).foldl (fun (s : State) _ => rackAsk s p.1 ⟨.demote, ctx, none⟩) s)
    (s.setCtx ctx { s.ctx ctx with evicted := true })

/-- Queue pairs, keys and handles of a context are gone. -/
def dropOwned (s : State) (ctx : Nat) : State :=
  let s1 := (s.ctx ctx).qps.foldl (fun (s : State) q =>
    pfcAll (s.onQp q.2.1 q.2.2 (fun x => { x with live := false, unacked := [], held := [] })) q.2.1) s
  onKeys s1 ctx (fun k => { k with live := false })

/-- Step 5 (R286, R319, R320): the windows go by UNMAP, then the pins by EVICT; when the pins have gone the record is freed and
the request completes. -/
def endTeardown (s : State) (ctx status : Nat) : State :=
  let p := (s.ctx ctx).part
  let s1 := if (s.part p).resident = some ctx then detach s p ctx else s
  let s2 := s1.setCtx ctx { s1.ctx ctx with saved := [], savedBars := [] }
  if (s2.ctx ctx).windows.any (windowUsed s2 ctx) then s2 else
  let s3 := (s2.ctx ctx).windows.foldl (fun (s : State) w => delWindow s ctx w) s2
  let s4 := if (s3.ctx ctx).evicted then s3 else evictAll s3 ctx
  if !(s4.ctx ctx).pins.isEmpty then s4 else
  let s5 := dropOwned s4 ctx
  let uid := (s5.ctx ctx).uid
  let s6 := setCtxSt s5 ctx .free 0
  done_ { s6 with ctxs := del s6.ctxs ctx, objs := mapAll s6.objs (fun _ o => if o.serves = ctx then { o with serves := 0xFFFF } else o) } uid status

/-- R319 steps 4 and 5; after an escalation the teardown ends with the partition's reset (R321). -/
def execTeardownComplete (ctx : Nat) (s : State) : Res :=
  .next (match look s.ctxs ctx with
    | none => s
    | some x =>
      if x.st ≠ .closing ∨ (x.escalated && underL2 s ctx) ∨ (!x.escalated && !x.evicted && outstanding s ctx ≠ 0) then s
      else endTeardown s ctx (if x.escalated then stEscalated else stOk))

/-! ### The trellis image (R296 to R301, R534) -/

/-- Bytes of an entry of a section (R297). -/
def entrySize (t : Nat) : Nat := match t with | 2 => 8 | 6 => 528 | _ => 16

/-- The sections of an image: type, entries. -/
def sectionsOf (b : Bytes) : List (Nat × List Bytes) :=
  (List.range 8).filterMap (fun i =>
    let e := slice b (0x80 + 16 * i) 16
    let t := field e 0 2
    if t = 0 then none else some (t, (List.range (field e 2 2)).map (fun j => slice b (field e 4 4 + j * entrySize t) (entrySize t))))

def sect (b : Bytes) (t : Nat) : List Bytes := ((sectionsOf b).find? (fun p => p.1 == t)).elim [] Prod.snd
def hasSect (b : Bytes) (t : Nat) : Bool := (sectionsOf b).any (fun p => p.1 == t)

/-- Where the directory entry of a section stands, and where the section does. -/
def dirAt (b : Bytes) (t : Nat) : Nat :=
  match (List.range 8).find? (fun i => field b (0x80 + 16 * i) 2 == t) with
  | some i => 0x80 + 16 * i
  | none => 0x80
def sectAt (b : Bytes) (t : Nat) : Nat := field b (dirAt b t + 4) 4

/-- The first field of a section's entries that `f` finds bad: `f` takes the entries before one and the entry, and answers
the place of the field in it. -/
def badField (b : Bytes) (t : Nat) (f : List Bytes → Bytes → Option Nat) : Option Nat :=
  let es := sect b t
  es.zipIdx.findSome? (fun e => (f (es.take e.2) e.1).map (fun i => sectAt b t + e.2 * entrySize t + i))

/-- The first of some checks that fails, each with the place of its field. -/
def firstBad (l : List (Bool × Nat)) : Option Nat := (l.find? Prod.fst).map Prod.snd

def scopeOf (b : Bytes) : Nat := field b 6 1
def signed (b : Bytes) : Bool := bit (field b 0x18 4) 0

/-- R296 and R297: the offset of the first field of the header or the directory that breaks them. DESIGN CHOICE: a SIG_OFFSET that
is not the one of the signature block is BAD_MAGIC at 0x1C; R301's row names MAGIC, MAJOR, LENGTH and the directory (log 80). -/
def formAt (b : Bytes) : Option Nat :=
  let len := field b 0xC 4
  let stop := if signed b then field b 0x1C 4 else len
  let at_ := fun (i : Nat) => 0x80 + 16 * i
  let typ := fun (i : Nat) => field b (at_ i) 2
  let off := fun (i : Nat) => field b (at_ i + 4) 4
  let size := fun (i : Nat) => field b (at_ i + 8) 4
  if b.length < 256 ∨ field b 0 4 ≠ 0x534C5254 then some 0
  else if field b 4 1 ≠ 1 then some 4
  else if len < 256 ∨ 2 ^ 24 < len ∨ b.length < len then some 0xC
  else if field b 0x1C 4 ≠ (if signed b then len - 3309 else 0) ∨ (signed b ∧ len < 3309 + 256) then some 0x1C
  else (List.range 8).findSome? (fun i =>
    if typ i = 0 then none
    else if 7 < typ i ∨ (List.range i).any (fun j => typ j == typ i) then some (at_ i)
    else if off i % 16 ≠ 0 ∨ off i < 256
        ∨ (List.range i).any (fun j => typ j != 0 && decide (off i < off j + size j) && decide (off j < off i + size i)) then some (at_ i + 4)
    else if stop < off i + size i then some (at_ i + 8)
    else if size i < field b (at_ i + 2) 2 * entrySize (typ i) then some (at_ i + 2)
    else none)

/-- A partition of an image: die, first cluster, clusters, duo. -/
abbrev PartDef := Nat × Nat × Nat × Bool
def partDefs (b : Bytes) : List PartDef := (sect b 1).map (fun e => (field e 0 1, field e 1 1, field e 2 1, field e 3 1 == 1))

/-- Whether a list holds a value twice. -/
def dup (l : List Nat) : Bool := l.eraseDups.length != l.length

def sizeOk (n : Nat) : Bool := [1, 2, 4, 8].contains n

def routeDefs (b : Bytes) : List (Nat × Nat × Nat × Nat) :=
  (sect b 2).map (fun e => (field e 0 1, field e 1 1, field e 2 1, field e 3 1))

/-- Dies that routes are for. -/
def State.liveDies (s : State) : List Nat := s.dieList.filter (fun d => !s.fenced d)

/-- Where a route so followed ends (R534): at its destination (true), at a fenced die (false), or neither. -/
def routeEnd (s : State) (rs : List (Nat × Nat × Nat × Nat)) (k dest : Nat) : Nat → Nat → Option Bool
  | 0, _ => none
  | n + 1, d =>
    match (routeOf rs d k dest).bind (linkDie s.model.dies d) with
    | none => none
    | some e => if s.fenced e then some false else if e = dest then some true else routeEnd s rs k dest n e

/-- A die that a route cannot be for: fenced, or not of the model. -/
def State.noDie (s : State) (d : Nat) : Bool := s.fenced d || decide (s.model.dies ≤ d)

/-- The LIMIT checks of R534 on the entries, then on the whole: an entry missing, a route that does not arrive. A route that
meets a fenced die is no LIMIT. -/
def routesBad (s : State) (b : Bytes) : Option Nat :=
  let rs := routeDefs b
  let key := fun (e : Bytes) => (field e 0 1, field e 1 1, field e 2 1)
  let entry := badField b 2 (fun before e => firstBad [
    (decide (8 ≤ field e 1 1), 1), (field e 0 1 == field e 2 1, 2),
    (decide (2 < field e 3 1) || (!s.noDie (field e 0 1) && !s.noDie (field e 2 1) && (linkDie s.model.dies (field e 0 1) (field e 3 1)).isNone), 3),
    ((before.map key).contains (key e), 0)])
  let live := rs.filter (fun r => !s.noDie r.1 && !s.noDie r.2.2.1)
  let all := s.liveDies.flatMap (fun d => s.liveDies.flatMap (fun e => if d = e then [] else (List.range 8).map (fun k => (d, k, e))))
  match entry with
  | some i => some i
  | none => all.findSome? (fun x => match routeOf live x.1 x.2.1 x.2.2 with
    | none => some (dirAt b 2 + 2)
    | some _ => match routeEnd s live x.2.1 x.2.2 s.model.dies x.1 with
      | some _ => none
      | none => badField b 2 (fun _ e => if key e = x then some 3 else none))

/-- A multicast entry: group, die, first cluster, members. -/
def groupDefs (b : Bytes) : List (Nat × Nat × Nat × Nat) :=
  (sect b 3).map (fun e => (field e 0 1, field e 1 1, field e 2 1, field e 8 8))

def partOf (ps : List PartDef) (d first : Nat) : Option PartDef := ps.find? (fun p => p.1 == d && p.2.1 == first)

/-- Whether an entry of die d at cluster k lies within the target range. -/
def inRange (b : Bytes) (d k n : Nat) : Bool :=
  d == field b 8 1 && decide (field b 9 1 ≤ k) && decide (k + n ≤ field b 9 1 + field b 0xA 1)

/-- Whether an entry lies outside the target range of a partition-scope image: SCOPE refuses it (R301). -/
def strays (b : Bytes) (d k : Nat) : Bool := scopeOf b == 1 && !inRange b d k 1

/-- R299: members in one partition; a number unique within its die, outside the range that a partition image replaces
too. -/
def groupsBad (s : State) (b : Bytes) : Option Nat :=
  badField b 3 (fun before e =>
    let g := field e 0 1
    let d := field e 1 1
    let f := field e 2 1
    firstBad [
      (decide (64 ≤ g), 0),
      (!strays b d f && (partOf (partDefs b) d f).isNone, 1),
      (field e 8 8 == 0 || (match partOf (partDefs b) d f with | some p => decide (2 ^ (8 * p.2.2.1) ≤ field e 8 8) | none => false), 8),
      (before.any (fun x => field x 0 1 == g && field x 1 1 == d)
        || (scopeOf b == 1 && !strays b d f && s.parts.any (fun q => q.1 / 8 == d && (look q.2.groups g).isSome
            && !(decide (field b 9 1 < q.1 % 8 + q.2.clusters) && decide (q.1 % 8 < field b 9 1 + field b 0xA 1)))), 0)])

/-- The STREAM entries against R240: a table serves every logical core of its partition, so that the GROUP of an MCAST ring holds
them all. -/
def streamsBad (b : Bytes) : Option Nat :=
  let gs := groupDefs b
  badField b 6 (fun before e =>
    let d := field e 0 1
    let f := field e 1 1
    if strays b d f then none
    else if (partOf (partDefs b) d f).isNone ∨ before.any (fun x => field x 0 1 == d && field x 1 1 == f) then some 0
    else (tableFault (parseTable (e.drop 16)) (fun g => gs.any (fun x => x.1 == g && x.2.1 == d && x.2.2.1 == f
      && (match partOf (partDefs b) d f with | some p => decide ((x.2.2.2 + 1) % 2 ^ (8 * p.2.2.1) = 0) | none => false)))).map (fun r => 16 + 16 * r))

/-- Whether an entry names what one before it names: the first byte is the key. -/
def doubled (before : List Bytes) (e : Bytes) : Bool := before.any (fun x => field x 0 1 == field e 0 1)

/-- R293: the field of a PARTITIONS entry that breaks it. -/
def partBad (before : List Bytes) (e : Bytes) : Option Nat :=
  let n := field e 2 1
  let f := field e 1 1
  firstBad [
    (!sizeOk n, 2), (decide (8 ≤ f) || f % n != 0, 1), (decide (1 < field e 3 1), 3),
    (before.any (fun x => field x 0 1 == field e 0 1 && decide (f < field x 1 1 + field x 2 1) && decide (field x 1 1 < f + n)), 1)]

/-- Where LIMIT first finds a field out of its range (R301): the offset of what failed. -/
def limitAt (s : State) (b : Bytes) : Option Nat :=
  [ firstBad [(decide (1 < scopeOf b), 6),
      (scopeOf b == 1 && decide (8 ≤ field b 8 1), 8),
      (scopeOf b == 1 && !sizeOk (field b 0xA 1), 0xA),
      (scopeOf b == 1 && (decide (8 ≤ field b 9 1) || field b 9 1 % field b 0xA 1 != 0), 9)],
    badField b 1 partBad,
    if hasSect b 2 then routesBad s b else none,
    groupsBad s b,
    badField b 4 (fun before e => firstBad [
      (decide (3 < field e 0 1), 0), (decide (3 < field e 1 1), 1), (decide (2 < field e 2 1), 2), (doubled before e, 0)]),
    badField b 5 (fun before e => firstBad [
      (decide (3 < field e 0 1), 0), (field e 2 2 == 4791 || field e 2 2 == 47971, 2), (doubled before e, 0)]),
    streamsBad b,
    badField b 7 (fun before e => firstBad [
      (decide (field e 2 1 < field e 1 1), 1), (decide (50 < field e 2 1), 2),
      (doubled before e, 0)])].findSome? id

/-- Where COPPICE first finds a unit missing (R301, R534). -/
def coppiceAt (s : State) (b : Bytes) : Option Nat :=
  let gone := fun (d : Nat) => decide (s.model.dies ≤ d)
  let noPort := fun (p : Nat) => decide (s.model.ports ≤ p) || s.fenced (portDie p) || (s.port p).failed
    || s.maps.any (fun e => e.kind == 10 && e.die == portDie p && e.st == 2)
  let port := fun (_ : List Bytes) (e : Bytes) => if noPort (field e 0 1) then some 0 else none
  [ if scopeOf b == 1 && gone (field b 8 1) then some 8 else none,
    badField b 1 (fun _ e => firstBad [
      (s.noDie (field e 0 1), 0),
      ((List.range (field e 2 1)).any (fun j => !s.clusterOk (field e 0 1) (field e 1 1 + j)), 1)]),
    badField b 2 (fun _ e => firstBad [
      (gone (field e 0 1), 0), (gone (field e 2 1), 2),
      (!s.noDie (field e 0 1) && !s.noDie (field e 2 1) && (match linkDie s.model.dies (field e 0 1) (field e 3 1) with
        | some f => s.fenced f
        | none => false), 3)]),
    badField b 3 (fun _ e => if gone (field e 1 1) then some 1 else none),
    badField b 4 port,
    badField b 5 port,
    badField b 6 (fun _ e => if gone (field e 0 1) then some 0 else none),
    badField b 7 (fun _ e => if gone (field e 0 1) && field e 0 1 != 0xFF then some 0 else none)].findSome? id

/-- Where SCOPE first fails (R297, R301). DESIGN CHOICE (log 77): a partition-scope image before the first module-scope one,
while the module has no partitions (R302), is refused with SCOPE. -/
def scopeAt (s : State) (b : Bytes) : Option Nat :=
  let within := fun (n : Nat → Bytes → Nat) (t d k : Nat) => badField b t (fun _ e =>
    if field e d 1 ≠ field b 8 1 then some d else if inRange b (field e d 1) (field e k 1) (n t e) then none else some k)
  if scopeOf b = 0 then ([1, 2, 4, 7].find? (fun t => !hasSect b t)).map (fun _ => 0x80)
  else if !s.trellis.applied then some 6
  else if !hasSect b 1 then some 0x80
  else match [2, 4, 5].find? (hasSect b) with
    | some t => some (dirAt b t)
    | none =>
      [ within (fun _ e => field e 2 1) 1 0 1, within (fun _ _ => 1) 3 1 2, within (fun _ _ => 1) 6 0 1,
        badField b 7 (fun _ e => if field e 0 1 ≠ field b 8 1 then some 0 else none)].findSome? id

/-- Partitions that lie wholly or partly in a range of a die (R303). -/
def affected (s : State) (d first n : Nat) : List Nat :=
  keysWhere s.parts (fun q y => decide (q / 8 = d) && decide (first < q % 8 + y.clusters) && decide (q % 8 < first + n))

/-- BUSY (R301, R302). -/
def applyBusy (s : State) (b : Bytes) : Bool :=
  s.trellis.applying.isSome || (if scopeOf b = 0 then !s.ctxs.isEmpty
    else (affected s (field b 8 1) (field b 9 1) (field b 0xA 1)).any (fun p =>
      s.ctxs.any (fun c => c.2.part == p && c.2.st == .closing)))

/-- DIGEST of R296. -/
def imageDigest (b : Bytes) : Bytes :=
  let stop := if signed b then field b 0x1C 4 else field b 0xC 4
  fit 64 (Config.shake (slice b 0 0x20 ++ slice b 0x80 (stop - 0x80)) 512)

/-- Whether the signature block holds (R301). -/
def imageSigned (s : State) (b : Bytes) : Bool :=
  match s.norView.owners.find? (fun o => o.hash == slice b 0x60 32) with
  | some o => Config.dsaOk o.key (slice b 0x20 64) (slice b (field b 0x1C 4) 3309)
  | none => false

/-- The result of validation (R301): code, and the offset of what failed. -/
def validate (s : State) (b : Bytes) : Nat × Nat :=
  match formAt b with
  | some o => (1, o)
  | none =>
  if field b 7 1 ≠ s.model.code then (2, 7)
  else if slice b 0x20 64 ≠ imageDigest b then (3, 0x20)
  else if signed b && !imageSigned s b then (4, 0x60)
  else if !signed b && s.norView.signed then (5, 0x18)
  else match limitAt s b with
    | some o => (6, o)
    | none => match coppiceAt s b with
      | some o => (7, o)
      | none => match scopeAt s b with
        | some o => (8, o)
        | none => if applyBusy s b then (9, 6) else (0, 0)

/-! ### Applying (R302 to R305) -/

/-- A unit's number in the table of progress samples (R469). -/
def unitKey (unit index : Nat) : Nat := 128 * unit + index

/-- The windows of the units of some clusters start anew (R470): their cores (by number on the die), what UNIT 6 to 9 names of the
clusters, and their far channels. -/
def restartWins (s : State) (d first n : Nat) (phys : List Nat) : State :=
  let within := fun (k : Nat) => decide (first ≤ k) && decide (k < first + n)
  let mine := fun (key : Nat) =>
    let u := key / 128
    if u ≤ 5 then phys.contains (key % 128) else if u ≤ 9 then within (key % 128) else u == 10 && within (key % 128 / 2)
  s.setDie d { s.die d with hang := (s.die d).hang.filter (fun e => !mine e.1) }

/-- The windows of a partition start anew. -/
def restartPart (s : State) (p : Nat) : State := restartWins s (p / 8) (p % 8) (s.part p).clusters (s.part p).phys

/-- POWER entries of dies (R300): a die without one takes the defaults. -/
def applyPower (s : State) (b : Bytes) (ds : List Nat) : State :=
  let s1 := ds.foldl (fun (s : State) d =>
    let x := s.die d
    let y := match (sect b 7).find? (fun e => field e 0 1 == d) with
      | some e => { x with vmin := field e 1 1, vmax := field e 2 1, capW := some (field e 4 2) }
      | none => { x with vmin := 10, vmax := 50, capW := none }
    setVcore (s.setDie d y) d y.set) s
  match (sect b 7).find? (fun e => field e 0 1 == 0xFF) with
  | some e => { s1 with trellis := { s1.trellis with modCap := some (Nat.min (field e 4 2) s1.model.maxPower) } }
  | none => if scopeOf b = 0 then { s1 with trellis := { s1.trellis with modCap := none } } else s1

/-- A partition of an image; one that stood before with the same shape keeps its registers (R305, R323). -/
def makePart (s : State) (b : Bytes) (p : PartDef) : Part :=
  let i := 8 * p.1 + p.2.1
  let old := match look s.parts i with
    | some y => if y.clusters = p.2.2.1 ∧ y.duo = p.2.2.2 then y else Part.init
    | none => Part.init
  let stream := match (sect b 6).find? (fun e => field e 0 1 == p.1 && field e 1 1 == p.2.1) with
    | some e => parseTable (e.drop 16)
    | none => []
  { old with
    clusters := p.2.2.1, duo := p.2.2.2, st := .inService, stream := stream, sw := none, resident := none
    phys := s.choose p.1 p.2.1 p.2.2.1
    groups := (groupDefs b).foldl (fun (m : SMap Nat) g => if g.2.1 = p.1 ∧ g.2.2.1 = p.2.1 then put m g.1 g.2.2.2 else m) []
    applies := if scopeOf b = 1 then hold 8 old.applies 1 else old.applies }

/-- A context's partition stands with its die, first cluster, size and grouping (R305). -/
def ctxFits (s : State) (x : Ctx) : Bool :=
  match look s.parts x.part with
  | some y => y.clusters == x.clusters && y.duo == x.duo
  | none => false

/-- STOPPED and HELD contexts after an apply (R305). -/
def refit (s : State) : State :=
  s.ctxs.foldl (fun (s : State) c =>
    if c.2.st = .stopped ∧ !ctxFits s c.2 then setCtxSt s c.1 .held 0
    else if c.2.st = .held ∧ ctxFits s c.2 then setCtxSt s c.1 .stopped 0
    else s) s

/-- Record what was applied (R301, R323, R393): the digests of partitions that it removed go. -/
def noteImage (s : State) (b : Bytes) (ps : List PartDef) (gone : List Nat) : State :=
  let t := s.trellis
  { s with trellis := { t with
    result := 0, scope := scopeOf b, serial := field b 0x10 8, applied := t.applied || scopeOf b == 0
    digest := if scopeOf b = 0 then slice b 0x20 64 else t.digest
    partDigests := if scopeOf b = 0 then [] else
      ps.foldl (fun (m : SMap Bytes) (p : PartDef) => put m (8 * p.1 + p.2.1) (slice b 0x20 64))
        (t.partDigests.filter (fun q => !gone.contains q.1)) } }

/-- A module-scope image replaces the whole configuration (R302). -/
def applyModule (s : State) (b : Bytes) : State :=
  let ps := partDefs b
  let s1 := { s with parts := ps.foldl (fun (m : SMap Part) (p : PartDef) => put m (8 * p.1 + p.2.1) (makePart s b p)) [] }
  let s2 := { s1 with trellis := { s1.trellis with routes := routeDefs b } }
  let s3 := (List.range s.model.ports).foldl (fun (s : State) p =>
    let e := (sect b 4).find? (fun e => field e 0 1 == p)
    let r := (sect b 5).find? (fun e => field e 0 1 == p)
    s.setPort p { s.port p with
      role := e.elim 0 (fun e => field e 1 1), start := e.elim (s.port p).start (fun e => field e 2 1)
      redOn := r.elim false (fun r => bit (field r 1 1) 0), udp := r.elim 47970 (fun r => field r 2 2) }) s2
  refit (noteImage (applyPower s3 b s.dieList) b ps [])

/-- Step 5 and 6 of a partition-scope apply (R303). -/
def applyRange (s : State) (b : Bytes) : State :=
  let ps := partDefs b
  let out := affected s (field b 8 1) (field b 9 1) (field b 0xA 1)
  let kept := s.parts.filter (fun q => !out.contains q.1)
  let s1 := { s with parts := ps.foldl (fun (m : SMap Part) (p : PartDef) => put m (8 * p.1 + p.2.1) (makePart s b p)) kept }
  let s2 := if (sect b 7).isEmpty then s1 else applyPower s1 b [field b 8 1]
  let s3 := ps.foldl (fun (s : State) (p : PartDef) => applySpares s (8 * p.1 + p.2.1)) s2
  refit (noteImage (ps.foldl (fun (s : State) (p : PartDef) => restartPart s (8 * p.1 + p.2.1)) s3) b ps out)

/-- What TRELLIS_APPLY answers: the result code in the first byte of DATA, then the offset (R301, R445). -/
def applyAnswer (s : State) (uid : Option Nat) (code at_ : Nat) : State :=
  match uid with
  | some u => complete s u (if code = 0 then stOk else stTrellis) (natLe 1 code ++ zeros 7 ++ natLe 8 at_)
  | none => s

/-- Go on with a partition-scope apply (R303 steps 3 to 6): contexts whose operations have completed are switched out;
with none left the image is applied. -/
def applyGo (s : State) : State :=
  match s.trellis.applying with
  | none => s
  | some (d, f, n, b) =>
    let ps := affected s d f n
    let s1 := ps.foldl (fun (s : State) p =>
      match (s.part p).resident with
      | some c => if (s.ctx c).st ≠ .resident ∨ partHalted s p then s else
          let t := drainOps s p c
          if drained t p c then switchOut t p c else t
      | none => s) s
    if ps.any (fun p => (s1.part p).resident.isSome) then s1 else
    let s2 := applyRange { s1 with trellis := { s1.trellis with applying := none, uid := none } } b
    applyAnswer s2 s1.trellis.uid 0 0

/-- R301 to R303: a partition-scope apply first puts its partitions in clearing. -/
def execTrellisApply (n : Nat) (s : State) : Res :=
  onReq s n 0x0301 (fun t s =>
    let b := t.fields
    let (code, at_) := validate s b
    let s0 := { s with trellis := { s.trellis with result := code, scope := scopeOf b % 2 } }
    if code ≠ 0 then applyAnswer s0 (some t.uid) code at_
    else if scopeOf b = 0 then applyAnswer (applyModule s0 b) (some t.uid) 0 0
    else
      let d := field b 8 1
      let s1 := (affected s0 d (field b 9 1) (field b 0xA 1)).foldl (fun (s : State) p =>
        let y := s.part p
        let u := match y.sw with | some w => done_ s w.uid stBusy | none => s
        u.setPart p { u.part p with st := .inClearing, sw := none }) s0
      applyGo (running { s1 with trellis := { s1.trellis with applying := some (d, field b 9 1, field b 0xA 1, b), uid := some t.uid } } t.uid))

/-- The apply is abandoned (R304): nothing of it is applied, the partitions return IN_SERVICE. A spare-in that waits comes in there,
or at the next switch-in where a context has stayed (R503). -/
def abandonApply (s : State) : State :=
  match s.trellis.applying with
  | none => s
  | some (d, f, n, _) =>
    let s1 := (affected s d f n).foldl (fun (s : State) p =>
      let y := s.part p
      let t := askQuiesce s p false
      let back := y.st = .inClearing ∧ !s.due.contains (.l2 (p / 8) (p % 8))
      let u := t.setPart p { t.part p with st := if back then .inService else y.st, timeouts := hold 8 y.timeouts 1 }
      let v := if back then restartPart (if y.resident.isNone then applySpares u p else u) p else u
      (v.partCores p).foldl (fun (s : State) k => issueRefills (s.core k).cx.refills.length s k) v) s
    let s2 := { s1 with trellis := { s1.trellis with result := 10, applying := none, uid := none } }
    applyAnswer s2 s1.trellis.uid 10 0

/-- R304: the quiesce missed its 50 µs. -/
def execApplyQuiesceTimeout (s : State) : Res := .next (abandonApply s)

/-- TE_OP_COMPLETE: an operation of a core's TE completes (R236, R257); an apply that waited for it goes on (R303). -/
def execTeOpComplete (c : CoreId) (op : Nat) (flaws : Flaws) (s : State) : Res :=
  onCore c s (fun k s =>
    let stores := match (s.core k).hw.ops.find? (fun o => o.id == op) with
      | some o => (match o.kind with | .store _ _ => true | .scatter _ _ _ _ => true | _ => false)
      | none => false
    applyGo (completeOp (s.plant (if stores then memFlaws flaws else flaws)) k op (tsFlaws flaws)))

/-- R458: a context not quiesced 5 s after its lease ran out stops at a command boundary; once its begun commands have
completed it is switched out and RETAINED. -/
def execQuiesceFallback (ctx : Nat) (s : State) : Res :=
  .next (match (s.ctx ctx).leaseQuiesce with
    | none => s
    | some t0 =>
      let p := (s.ctx ctx).part
      if (s.ctx ctx).st ≠ .resident ∨ (s.part p).resident ≠ some ctx ∨ (s.die s.fw.bootDie).time < t0 + 125000000 then s else
      let s1 := (s.partCores p).foldl (fun (s : State) k => s.onCC k (fun x => { x with boundary := true })) s
      let busy := (s1.partCores p).any (fun k => [(s1.core k).cx.ope, (s1.core k).cx.ve, (s1.core k).cx.te].any (fun e =>
        !e.stopped && !e.held && e.q.any (fun n => n.st == .begun && !blocks n.word)))
      if busy || partHalted s1 p then s1 else
      let s2 := drainOps (s1.setPart p { s1.part p with forced := true }) p ctx
      if drained s2 p ctx && roleUp s2 (p / 8) 0 then
        let s3 := switchOut s2 p ctx
        match (s3.part p).sw with
        | some ⟨none, _, _, _⟩ => s3.setPart p { s3.part p with sw := none }
        | _ => s3
      else s2)

end Sys2Proof.Machine
end

