-- ==== Sys2Proof/Machine/Ports.lean ====
section
/-! DEFINITION. Ports (R351 to R371): link, address resolution, dropped frames, priority flow control, inbound and outbound
RoCEv2, and the requests for queue pairs, keys and addresses. -/

set_option autoImplicit false

namespace Sys2Proof.Machine

/-! ### Link (R353) -/

/-- A port that stands: fitted, its die unfenced and powered. -/
def portOn (s : State) (p : Nat) : Bool := !s.fenced (portDie p) && (s.die (portDie p)).railsOn

/-- R353: the attempt ends without lock; after 400 Gbit/s the cycle ends with a LINK event. -/
def execPortRateAttempt (p : Nat) (s : State) : Res :=
  onPort p s (fun s =>
    let x := s.port p
    if !x.trying || !portOn s p then s else
    let s1 := s.setPort p { x with attempts := hold 8 x.attempts 1, rate := if 2 ≤ x.rate then x.start else x.rate + 1 }
    if 2 ≤ x.rate then linkFault s1 p 0xFFFF 0 1 0 else s1)

/-- Lanes that a rate uses (R351). -/
def rateLanes (rate : Nat) : Nat := match rate with | 0 => 0xFF | 1 => 0x0F | _ => 0x03

/-- R353, R396: the PCS locks. -/
def execPortLock (p : Nat) (lanes : BitVec 8) (s : State) : Res :=
  onPort p s (fun s =>
    let x := s.port p
    if !x.trying || !portOn s p then s else
    flushPort (s.setPort p { x with up := true, trying := false, attempts := 0, lanes := lanes.toNat &&& rateLanes x.rate }) p)

/-- R353, R396: an up port loses lock and retries its current rate. -/
def execPortLockLoss (p : Nat) (s : State) : Res :=
  onPort p s (fun s =>
    let x := s.port p
    if !x.up then s else s.setPort p { x with up := false, trying := true, lanes := 0, downs := hold 16 x.downs 1 })

/-! ### Addresses, answers, drops (R354 to R357) -/

/-- The link-local address by the modified EUI-64 rule (R355). -/
def linkLocal (p : Nat) : Nat :=
  let m := macOf p
  0xFE80 * 2 ^ 112 + ((m / 2 ^ 24 * 2 ^ 40 + 0xFFFE * 2 ^ 24 + m % 2 ^ 24) ^^^ 2 ^ 57)

/-- The IPv4 address that a port holds: the boot address before the firmware runs (R355, R394). -/
def port4 (s : State) (p : Nat) : Option Nat :=
  if s.fw.inService then (s.port p).v4.map (fun x => x.1)
  else if portDie p = s.fw.bootDie then s.norView.bootAddr.map (fun x => 0xFFFF * 2 ^ 32 + x.1 % 2 ^ 32) else none

def port6 (s : State) (p : Nat) : Option Nat := if s.fw.inService then (s.port p).v6.map (fun x => x.1) else none

/-- Whether an address is the port's own. -/
def ownAddr (s : State) (p a : Nat) : Bool := a == linkLocal p || port4 s p == some a || port6 s p == some a

/-- The address that a port talks to another from (R355). -/
def localFor (s : State) (p remote : Nat) : Nat :=
  if v4Mapped remote then (port4 s p).getD 0
  else if remote / 2 ^ 118 = 0xFE80 / 64 then linkLocal p
  else (port6 s p).getD (linkLocal p)

/-- A packet of ARP or Neighbour Discovery for an address of the port (R355, R357): it tells the sender's link address, and a
question is answered. -/
def hearNeighbour (s : State) (p : Nat) (k : Neighbour) (own : Bool) (o : Out) : State :=
  arrive s p k.arr true (fun s =>
    let s1 := s.packets p 1
    if !own then s1 else
    let s2 := learn s1 p k.ip.toNat k.arr
    if k.answer then s2 else portSend s2 p 0 k.ip.toNat o)

/-- R355, R357. -/
def execArpReceived (p : Nat) (sender : Neighbour) (target : BitVec 128) (s : State) : Res :=
  onPort p s (fun s => hearNeighbour s p sender (port4 s p == some target.toNat) (.arp p sender.ip.toNat))

/-- R355, R357. -/
def execNdReceived (p : Nat) (sender : Neighbour) (target : BitVec 128) (s : State) : Res :=
  onPort p s (fun s => hearNeighbour s p sender (ownAddr s p target.toNat && !v4Mapped target.toNat) (.nd p sender.ip.toNat))

/-- Bytes of IP that an echo reply takes: its payload behind the headers of IP and ICMP (R358). -/
def echoLen (ip : Nat) (payload : Bytes) : Nat := payload.length + (if v4Mapped ip then 28 else 48)

/-- R357. No packet of more than 9,000 bytes of IP leaves (R358). -/
def execIcmpEcho (p : Nat) (sender dest : BitVec 128) (k : EchoPkt) (s : State) : Res :=
  onPort p s (fun s => arrive s p k.arr false (fun s =>
    let s1 := learn (s.packets p 1) p sender.toNat k.arr
    if ownAddr s p dest.toNat && decide (echoLen sender.toNat k.payload ≤ 9000) then
      portSend s1 p 0 sender.toNat (.echo p sender.toNat k.payload) else s1))

/-- R354, R357, R360, R375. A frame that none of these rules drops is not dropped. -/
def execFrameDropped (p : Nat) (fr : Sys2Proof.Frame) (s : State) : Res :=
  onPort p s (fun s =>
    if !(s.port p).up then s else
    let x := s.port p
    let top := 9216 + (if fr.tags = 1 then 4 else 0) + (if fr.arr.macsec then 32 else 0)
    let y := { x with fecCorr := hold 32 x.fecCorr fr.arr.corr, fecUncorr := hold 16 x.fecUncorr fr.arr.uncorr }
    if top < fr.len ∨ 1 < fr.tags then s.setPort p { y with dOver := hold 16 x.dOver 1 }
    else arrive s p fr.arr fr.exempt fun s =>
    let x := s.port p
    if !fr.supported ∨ fr.len < 64 then s.setPort p { x with dUnsup := hold 16 x.dUnsup 1 }
    else if !x.lossless fr.prio ∧ bufShare < x.occupied fr.prio + fr.len then s.setPort p { x with dBuf := hold 16 x.dBuf 1 }
    else s)

/-! ### Priority flow control (R360) -/

/-- A PFC frame pauses a priority, or with quanta 0 resumes it. -/
def execPfcReceived (p prio : Nat) (quanta : BitVec 16) (s : State) : Res :=
  onPort p s (fun s =>
    let x := s.port p
    if !x.up || 8 ≤ prio then s
    else if quanta = 0 then flushPort (s.setPort p { x with paused := del x.paused prio }) p
    else s.setPort p { x with paused := put x.paused prio quanta.toNat, pfcRx := hold 16 x.pfcRx 1 })

def execPfcRefresh (p prio : Nat) (s : State) : Res :=
  onPort p s (fun s =>
    let x := s.port p
    if x.up && x.xoff.contains prio then
      (s.setPort p { x with pfcTx := hold 16 x.pfcTx 1 }).emit (.pfc p prio 0xFFFF)
    else s)

/-- A LINK event (R360, R465 reason 2); the pause is honoured on. -/
def execPfcPauseLong (p prio : Nat) (s : State) : Res :=
  onPort p s (fun s => if get 0 (s.port p).paused prio = 0 then s else linkFault s p 0xFFFF 0 2 0)

def execPfcPauseExpiry (p prio : Nat) (s : State) : Res :=
  onPort p s (fun s => flushPort (s.setPort p { s.port p with paused := del (s.port p).paused prio }) p)

/-! ### Inbound RoCEv2 (R361, R363 to R369, R372, R395, R437) -/

/-- Whether an access is admitted, refused, or waits for a granule (checks 5 and 6 of R368 for each owner). -/
inductive Admit
  | ok | refused | waits
  deriving DecidableEq, Repr

/-- Where a session's host may read and write its space (R437); `none` for the argument object. -/
def spaceOk (va n : Nat) (wr : Bool) : Bool :=
  let within := fun (lo hi : Nat) => decide (lo ≤ va) && decide (va + n ≤ hi)
  if wr then within 0x1000 0x3000 || within 0x10000 0x50000 else within 0 0x3000 || within 0x10000 0x1D0000

def allowed (s : State) (own : Owner) (va n : Nat) (a : Acc) : Admit :=
  match own with
  | .ctx c =>
    (match locateRun s c va n a false with
    | none => .ok
    | some (_, .refused _) => .refused
    | some _ => .waits)
  | .rings i =>
    if a = .atomic then .refused
    else if va < 0x10000000 then (if spaceOk va n (a == .write) then .ok else .refused)
    else match argsAt s i (va - 0x10000000) n with
      | none => .refused
      | some o => if va - 0x10000000 + n ≤ 2 ^ 30 then (if a = .write ∧ objWaits s o (va - 0x10000000) n then .waits else .ok) else .refused
  | .boot => if a = .write ∧ va + n ≤ 64 * 1048576 then .ok else .refused
  | .dump => if a = .read ∧ va + n ≤ s.dump.size * 2 ^ 30 then .ok else .refused

/-- Check 5 of R368: key live, of the queue pair's context, range, right. The owners of the firmware's own keys: a
session's rings, the boot responder, the dump region. Within a WRITE message accepted in part (`mid`) a revoked key still
opens its range (R322). -/
def keyOk (s : State) (own : Owner) (mid : Bool) (key va n : Nat) (a : Acc) : Bool :=
  match look s.keys (key % 65536) with
  | none => false
  | some k =>
    (k.live || mid) && k.gen == key / 65536 && decide (k.base ≤ va) && decide (va + n ≤ k.base + k.len)
      && (k.owner == own || (k.owner == .dump && (match own with | .rings _ => a == .read | _ => false)))
      && (match a with | .read => k.rd | .write => k.wr | .atomic => k.at_)

/-- The memory that a key opens. -/
def keyOwner (s : State) (key : Nat) : Owner := (get ⟨0, .boot, 0, 0, false, false, false, false⟩ s.keys (key % 65536)).owner

/-- Whether a channel belongs to a partition under reset: one that a recovery at L2 is called for (check 7; log 34). -/
def underReset (s : State) (pa : Nat) : Bool :=
  let hit := fun (d k : Nat) => s.due.any (fun r => match r with
    | .l2 d' f => d' == d && (match s.partAt d k with | some q => q == 8 * d + f | none => f == k)
    | _ => false)
  match tierOf pa with
  | .near d k => hit d k
  | .far d ch => hit d (ch / 2)
  | _ => false

def needsReset (s : State) (own : Owner) (va n : Nat) (a : Acc) : Bool :=
  match own with
  | .ctx c => (pieces va n).any (fun p => match locate s c p.1 a false with
      | .at_ pa _ _ => underReset s pa
      | _ => false)
  | .rings i => decide (0x10000000 ≤ va) && (match argsAt s i (va - 0x10000000) n with
      | some o => (pieces (va - 0x10000000) n).any (fun p => match objAt s o p.1 a with
          | .at_ pa _ _ => underReset s pa
          | _ => false)
      | none => false)
  | _ => false

/-- The access that an operation makes: 0 WRITE, 1 READ, 2 FETCH_AND_ADD. -/
def opAcc (op : Nat) : Acc := match op with | 0 => .write | 1 => .read | _ => .atomic
def opLen (op : Nat) (k : RocePkt) : Nat := match op with | 0 => k.data.length | 1 => k.len | _ => 8

/-- Change a session without a write of its header block. -/
def State.onSess (s : State) (i : Nat) (f : Session → Session) : State :=
  match look s.sess i with
  | some x => { s with sess := put s.sess i (f x) }
  | none => s

/-- The packets of the response to a READ (R358, R364): at most the path MTU each, with successive PSNs. -/
def Qp.readResponse (q : Qp) (p psn : Nat) (bs : Bytes) : List Out :=
  (List.range (Nat.max 1 (ceilDiv bs.length q.mtu))).map (fun i =>
    .readData p q.remoteQpn ((psn + i) % 2 ^ 24) (slice bs (q.mtu * i) (Nat.min q.mtu (bs.length - q.mtu * i))))

/-- Carry out an inbound request in its place (R369): a write lands with its poison, where the queue pair carries it
(R370); a READ and a FETCH_AND_ADD are answered. -/
def landPkt (s : State) (p qpn op : Nat) (k : RocePkt) : State :=
  match s.qp p qpn with
  | none => s
  | some q =>
    let bad := if q.mark then (List.range k.mask.length).filter (fun i => nth false k.mask i) else []
    let own := keyOwner s k.key
    match op with
    | 0 =>
      (match own with
      | .ctx c => wrVa s (s.home c) c k.va k.data bad false
      | .rings i =>
        if k.va < 0x10000000 then
          s.onSess i (fun x => { x with space := Mem.setBytes x.space k.va k.data })
        else match argsAt s i (k.va - 0x10000000) k.data.length with
          | some o => objWrite s o (k.va - 0x10000000) k.data
          | none => s
      | .boot => { s with fw := { s.fw with staging := Mem.setBytes s.fw.staging k.va k.data } }
      | .dump => s)
    | 1 =>
      let (bs, s1) := match own with
        | .ctx c => let r := rdVa s (s.home c) c k.va k.len false; (r.1, r.2.2)
        | .rings i =>
          if k.va < 0x10000000 then (Mem.bytes (match look s.sess i with | some x => x.space | none => []) k.va k.len, s)
          else match argsAt s i (k.va - 0x10000000) k.len with
            | some o => (objRead s o (k.va - 0x10000000) k.len, meetObj s 0xFFFF o (k.va - 0x10000000) k.len)
            | none => (zeros k.len, s)
        | .dump => (Mem.bytes s.dump.bytes k.va k.len, s)
        | .boot => (zeros k.len, s)
      (q.readResponse p k.psn bs).foldl (fun (s : State) o => portSend s p 2 q.remoteIp o) s1
    | _ =>
      let (old, s1) := match own with
        | .ctx c => addVa s (s.home c) c k.va k.add
        | _ => (0, s)
      portSend s1 p 2 q.remoteIp (.atomicData p q.remoteQpn k.psn old)

/-- Requests that waited behind a granule go on in order (R369). -/
def flushHeld1 : Nat → State → Nat → Nat → State
  | 0, s, _, _ => s
  | n + 1, s, p, qpn =>
    match s.qp p qpn with
    | none => s
    | some q =>
      match q.held with
      | [] => s
      | (op, k) :: rest =>
        let go := fun (s : State) => flushHeld1 n (pfcCheck (s.onQp p qpn (fun q => { q with held := rest })) p k.prio) p qpn
        match allowed s (keyOwner s k.key) k.va (opLen op k) (opAcc op) with
        | .waits => s
        | .refused => go s
        | .ok => go (landPkt s p qpn op k)

def flushHeld (s : State) : State :=
  s.ports.foldl (fun (s : State) pt => pt.2.qps.foldl (fun (s : State) q =>
    flushHeld1 q.2.held.length s pt.1 (q.2.num q.1)) s) (payOwed s)

/-- R276, R281 to R283; requests of the ports that waited for the granule go on (R369). -/
def execRackOpDone (d e obj granule : Nat) (flaws : Flaws) (s : State) : Res :=
  onUnit d e 16 s (fun s =>
    match look s.objs obj with
    | none => s
    | some o =>
      if obj / 2 ^ 17 ≠ d ∨ o.engine ≠ e ∨ !o.live.contains granule ∨ s.fenced d then s
      else flushHeld (rackGo (endRackOp (s.plant flaws) obj o granule) d e))

/-- A RoCEv2 packet that a port takes for a queue pair: dropped and counted when the number names none (R366). -/
def onLive (s : State) (p qpn : Nat) (a : Arrival) (f : Qp → State → State) : State :=
  arrive s p a false (fun s =>
    let s1 := s.packets p 1
    match s1.qp p qpn with
    | none => s1.setPort p { s1.port p with unknown := hold 16 (s1.port p).unknown 1 }
    | some q =>
      let s2 := learn s1 p q.remoteIp a
      f ((s2.qp p qpn).getD q) s2)

/-- Send a NAK and count it (R368). -/
def nakSend (s : State) (p : Nat) (q : Qp) (psn : Nat) (k : NakKind) : State :=
  let x := s.port p
  let s1 := match k with
    | .seq => s.setPort p { x with seqNak := hold 16 x.seqNak 1 }
    | .access => s.setPort p { x with accNak := hold 16 x.accNak 1 }
    | _ => s
  portSend s1 p 2 q.remoteIp (.nak p q.remoteQpn psn k)

/-- PSNs that a request takes: a READ one for each packet of its response. -/
def psnSpan (q : Qp) (op : Nat) (k : RocePkt) : Nat := if op = 1 then Nat.max 1 (ceilDiv k.len q.mtu) else 1

/-- Whether a queue pair's context is being torn down: its inbound requests are refused for access, but for the rest of a
WRITE message accepted in part before (R319, R322). -/
def Qp.closing (s : State) (q : Qp) : Bool := match q.owner with
  | .ctx c => (s.ctx c).st == .closing
  | _ => false

/-- The checks of R368 in their order, then the request (R369). `op` 3 is an operation the module does not serve. -/
def inbound (s0 : State) (p op : Nat) (k : RocePkt) : State :=
  onLive s0 p k.qpn k.arr fun q s =>
    let s1 := if k.ce then cnp s p k.qpn q else s
    let gap := (k.psn + 2 ^ 24 - q.psnRecv) % 2 ^ 24
    let n := opLen op k
    let a := opAcc op
    let mid := q.mid && op == 0
    if q.error && !(q.closing s1 && mid) then nakSend s1 p q k.psn (if q.closing s1 then .access else .operational)
    else if 2 ^ 23 ≤ gap then portSend s1 p 2 q.remoteIp (.ack p q.remoteQpn ((q.psnRecv + 2 ^ 24 - 1) % 2 ^ 24))
    else if gap ≠ 0 then nakSend s1 p q q.psnRecv .seq
    else if op = 3 ∨ (q.owner = .boot ∧ op ≠ 0) ∨ (op = 2 ∧ k.va % 8 ≠ 0) ∨ (op = 1 ∧ 64 ≤ (q.held.filter (fun h => h.1 == 1)).length) then
      nakSend s1 p q k.psn .invalid
    else if !keyOk s1 q.owner mid k.key k.va n a then nakSend s1 p q k.psn .access
    else
      let own := keyOwner s1 k.key
      match allowed s1 own k.va n a with
      | .refused => nakSend s1 p q k.psn .access
      | w =>
        if needsReset s1 own k.va n a then
          let x := s1.port p
          portSend (s1.setPort p { x with rnrSent := hold 16 x.rnrSent 1 }) p 2 q.remoteIp (.rnrNak p q.remoteQpn k.psn 13)
        else
          let s2 := s1.onQp p k.qpn (fun q => { q with psnRecv := (q.psnRecv + psnSpan q op k) % 2 ^ 24, mid := op == 0 && !k.last })
          let s3 := if w = .waits ∨ !q.held.isEmpty then
              pfcCheck (s2.onQp p k.qpn (fun q => { q with held := q.held ++ [(op, k)] })) p k.prio
            else landPkt s2 p k.qpn op k
          if op = 0 ∧ (k.last ∨ k.ackReq) then portSend s3 p 2 q.remoteIp (.ack p q.remoteQpn k.psn) else s3

/-- R290, R368 to R370, R372. -/
def execRoceInboundWrite (p : Nat) (pkt : RocePkt) (flaws : Flaws) (s : State) : Res :=
  onPort p s (fun s => inbound (s.plant flaws) p 0 pkt)

/-- R290, R363, R369. -/
def execRoceInboundRead (p : Nat) (pkt : RocePkt) (flaws : Flaws) (s : State) : Res :=
  onPort p s (fun s => inbound (s.plant flaws) p 1 pkt)

/-- R224, R363, R369. -/
def execRoceInboundFetchAdd (p : Nat) (pkt : RocePkt) (flaws : Flaws) (s : State) : Res :=
  onPort p s (fun s => inbound (s.plant flaws) p 2 pkt)

/-- R363. -/
def execRoceInboundUnsupported (p : Nat) (pkt : RocePkt) (_op : RoceOther) (s : State) : Res :=
  onPort p s (fun s => inbound s p 3 pkt)

/-! ### Outbound RoCEv2 (R362, R365, R370, R371) -/

/-- The peer's acknowledgement of a slot's last packet completes the operation, and its slot is released (R212, R370). -/
def completePut (s : State) (p qpn : Nat) (x : SentPkt) : State :=
  if !x.last then s else
  match (s.core x.core).hw.ops.find? (fun o => o.id == x.op) with
  | none => s
  | some o =>
    match o.kind with
    | .put r i p' q' =>
      if p' ≠ p ∨ q' ≠ qpn then s
      else
        let mine := fun (z : TeOp) => z.ctx == o.ctx && (match z.kind with
          | .refill r' i' _ => r' == r && i' == i
          | .reindex r' i' _ => r' == r && i' == i
          | .reload r' i' _ _ => r' == r && i' == i
          | _ => false)
        let s1 := (s.onHw x.core (fun h => { h with ops := h.ops.filter (fun z => !mine z) })).onCx x.core (fun y =>
          { y with refills := y.refills.filter (· != (r, i)) })
        endOp (if (s.core x.core).ctx = some o.ctx then s1.onRing x.core r (fun y => y.release i) else s) x.core x.op
    | _ => s

/-- Packets up to a PSN are acknowledged; the retry counts start anew. -/
def ackTo (s : State) (p qpn psn : Nat) : State :=
  match s.qp p qpn with
  | none => s
  | some q =>
    let hit := fun (x : SentPkt) => x.onWire && decide ((psn + 2 ^ 24 - x.psn) % 2 ^ 24 < 2 ^ 23)
    let got := q.unacked.filter hit
    if got.isEmpty then s else
    let s1 := s.onQp p qpn (fun q => { q with unacked := q.unacked.filter (fun x => !hit x), retriesLeft := q.retries, rnrLeft := q.rnr })
    match q.owner with
    | .ctx _ => got.foldl (fun (s : State) x => completePut s p qpn x) s1
    | _ => s1

/-- R361, R370: an apply that waited for the operation goes on (R303). -/
def execRoceAckReceived (p qpn : Nat) (a : AckHead) (s : State) : Res :=
  onPort p s (fun s => onLive s p qpn a.arr (fun q s =>
    let s1 := if a.ce then cnp s p qpn q else s
    if q.error then s1 else applyGo (ackTo s1 p qpn a.psn)))

/-- Resend, or the error state when the retries are exhausted (R371). -/
def retry (s : State) (p qpn : Nat) (q : Qp) : State :=
  if q.retriesLeft = 0 then qpError s p qpn
  else resend (s.onQp p qpn (fun q => { q with retriesLeft := q.retriesLeft - 1 })) p qpn

/-- R361, R371: a NAK acknowledges what came before it; a sequence error resends, an RNR NAK sets up a wait, any other ends the
queue pair. -/
def execRoceNakReceived (p qpn : Nat) (a : AckHead) (kind : NakKind) (s : State) : Res :=
  onPort p s (fun s => onLive s p qpn a.arr (fun q s =>
    let s0 := if a.ce then cnp s p qpn q else s
    if q.error then s0 else
    let s1 := ackTo s0 p qpn ((a.psn + 2 ^ 24 - 1) % 2 ^ 24)
    applyGo (match kind with
      | .seq => retry s1 p qpn ((s1.qp p qpn).getD q)
      | .rnr => s1.onQp p qpn (fun q => { q with rnrWait := true })
      | _ => qpError s1 p qpn)))

/-- R365, R371: an RNR retry count of 7 is unlimited. -/
def execQpRnrRetry (p qpn : Nat) (s : State) : Res :=
  onPort p s (fun s =>
    match s.qp p qpn with
    | none => s
    | some q =>
      if q.error || !q.rnrWait then s else
      let s1 := s.onQp p qpn (fun q => { q with rnrWait := false })
      if q.rnr = 7 then resend s1 p qpn
      else if q.rnrLeft = 0 then qpError s1 p qpn
      else resend (s1.onQp p qpn (fun q => { q with rnrLeft := q.rnrLeft - 1 })) p qpn)

/-- R365: the local ACK timeout runs out over a packet sent. -/
def execQpAckTimeout (p qpn : Nat) (s : State) : Res :=
  onPort p s (fun s =>
    match s.qp p qpn with
    | none => s
    | some q => if q.error || q.rnrWait || !q.unacked.any SentPkt.onWire then s else retry s p qpn q)

/-- CUT, HOLD and STEP of PORT.RATECTL (R396). -/
def Port.cut (x : Port) : Nat := Nat.max 1 (bits x.ratectl 31 26)
def Port.holdUs (x : Port) : Nat := bits x.ratectl 25 16
def Port.stepUs (x : Port) : Nat := Nat.max 1 (bits x.ratectl 15 6)

/-- Whether STEP µs have passed since a moment (R362), by the die's time (log 35). -/
def mayRaise (s : State) (p : Nat) (since : Option Nat) : Bool := match since with
  | some t => decide (t + 25 * (s.port p).stepUs ≤ (s.die (portDie p)).time)
  | none => true

/-- A rate after a cut: never below 1/256 of the line rate (R362; log 35). -/
def cutRate (r cut : Nat) : Nat := Nat.max 128 (r * (64 - cut) / 64)

/-- R362. -/
def execRoceCnpReceived (p qpn : Nat) (k : CnpPkt) (s : State) : Res :=
  onPort p s (fun s => onLive s p qpn k.arr (fun q s =>
    let x := s.port p
    let s1 := s.setPort p { x with cnpRx := hold 16 x.cnpRx 1 }
    let may := match q.lastCut with | some t => decide (t + x.holdUs ≤ k.us) | none => true
    s1.onQp p qpn (fun q => { q with
      rateSince := some (s.die (portDie p)).time, rate := if may then cutRate q.rate x.cut else q.rate, lastCut := if may then some k.us else q.lastCut })))

/-- R362: STEP µs have passed without a CNP. -/
def execQpRateIncrease (p qpn : Nat) (s : State) : Res :=
  onPort p s (fun s => s.onQp p qpn (fun q =>
    if mayRaise s p q.rateSince then { q with rate := Nat.min 32768 (q.rate + 256), rateSince := some (s.die (portDie p)).time } else q))

/-! ### Requests (R356, R365 to R367) -/

/-- A port that requests may name. -/
def portFitted (s : State) (p : Nat) : Bool := decide (p < s.model.ports) && !s.fenced (portDie p) && !(s.port p).failed

/-- The lowest entry of a port's table that no live queue pair holds (R365; log 10). -/
def freeQp (s : State) (p : Nat) : Option Nat :=
  (List.range 4096).find? (fun e => match look (s.port p).qps e with | some q => !q.live | none => true)

/-- Enter a queue pair: a reused entry takes the next generation (R366); the start PSN is a free value. Answers its number
and start PSN. -/
def addQp (s : State) (p e : Nat) (f : Nat → Nat → Qp) : Nat × Nat × State :=
  let gen := match look (s.port p).qps e with | some q => (q.gen + 1) % 4096 | none => 0
  let (v, s1) := s.fresh
  let psn := v % 2 ^ 24
  (gen * 4096 + e, psn, s1.setPort p { s1.port p with qps := put (s1.port p).qps e (f gen psn) })

/-- A queue pair of the firmware for a session's rings or the boot responder (R395, R436): MARK 0, and an RNR retry count
without limit. -/
def fwQp (own : Owner) (remoteIp remoteQpn remotePsn mtu loc : Nat) (gen psn : Nat) : Qp :=
  { gen := gen, owner := own, handle := 0, remoteIp := remoteIp, remoteQpn := remoteQpn, localIp := loc, psnSend := psn,
    psnRecv := remotePsn, mtu := mtu, mark := false, ackCode := 14, retries := 7, rnr := 7, retriesLeft := 7, rnrLeft := 7,
    error := false, rate := 32768, lastCut := none, rateSince := none, lastCnpTx := none, unacked := [], held := [],
    mid := false, rnrWait := false, live := true }

/-- R365 (log 36 gives the places of the fields). -/
def execQpCreate (n : Nat) (s : State) : Res :=
  onReq s n 0x0402 (fun t s =>
    let f := field t.fields
    let c := f 0 2
    let p := f 2 1
    let h := f 4 2
    let ip := f 16 16
    let host := match look s.sess t.sess with | some x => x.ip | none => 0
    let role := (s.port p).role
    if !s.ctxNamed c then complete s t.uid stNotFound []
    else if !portFitted s p || (if ip = host then role != 1 && role != 3 else role != 2 && role != 3) then complete s t.uid stPort []
    else if 4096 ≤ h ∨ 31 < f 45 1 ∨ 7 < f 48 4 ∨ 7 < f 52 4 ∨ 1 < f 44 1 ∨ 2 ^ 24 ≤ f 32 4 ∨ 2 ^ 24 ≤ f 36 4
        ∨ !([1024, 2048, 4096].contains (f 40 4)) then complete s t.uid stLimit []
    else if (look (s.ctx c).qps h).isSome then complete s t.uid stExists []
    else match freeQp s p with
      | none => complete s t.uid stLimit []
      | some e =>
        let (qpn, psn, s1) := addQp s p e (fun gen psn =>
          { fwQp (.ctx c) ip (f 32 4) (f 36 4) (f 40 4) (localFor s p ip) gen psn with
            handle := h, mark := f 44 1 == 1, ackCode := f 45 1, retries := f 48 4, rnr := f 52 4, retriesLeft := f 48 4, rnrLeft := f 52 4 })
        let s2 := s1.setCtx c { s1.ctx c with qps := put (s1.ctx c).qps h (p, qpn) }
        complete s2 t.uid stOk (natLe 4 qpn ++ natLe 4 psn))

/-- End a queue pair: its entry may be used again, and its TPUTs never complete (R366, R371). -/
def endQp (s : State) (p qpn : Nat) : State :=
  pfcAll (s.onQp p qpn (fun q => { q with live := false, error := true, unacked := [], held := [], rnrWait := false })) p

/-- QP_DESTROY names the context and the handle (log 36); a TPUT outstanding there never completes (R214, R371). -/
def execQpDestroy (n : Nat) (s : State) : Res :=
  onReq s n 0x0403 (fun t s =>
    let c := field t.fields 0 2
    let h := field t.fields 2 2
    if !s.ctxNamed c then complete s t.uid stNotFound [] else
    match look (s.ctx c).qps h with
    | none => complete s t.uid stNotFound []
    | some (p, qpn) =>
      let s1 := endQp (haltPuts s p qpn) p qpn
      complete (s1.setCtx c { s1.ctx c with qps := del (s1.ctx c).qps h }) t.uid stOk [])

/-- The lowest key entry that no live key holds (R367; log 10). -/
def freeKey (s : State) : Option Nat :=
  (List.range 65536).find? (fun e => match look s.keys e with | some k => !k.live | none => true)

/-- Enter a key; a reused entry takes the next generation (R367). -/
def addKey (s : State) (e : Nat) (f : Nat → Key) : Nat × State :=
  let gen := match look s.keys e with | some k => (k.gen + 1) % 65536 | none => 0
  (gen * 65536 + e, { s with keys := put s.keys e (f gen) })

/-- R367 (log 36). -/
def execKeyCreate (n : Nat) (s : State) : Res :=
  onReq s n 0x0404 (fun t s =>
    let f := field t.fields
    let c := f 0 2
    let r := f 20 1
    if !s.ctxNamed c then complete s t.uid stNotFound []
    else if f 16 4 = 0 ∨ f 16 4 % 64 ≠ 0 ∨ 2 ^ 52 < f 8 8 + f 16 4 then complete s t.uid stLimit []
    else match freeKey s with
      | none => complete s t.uid stLimit []
      | some e =>
        let (key, s1) := addKey s e (fun gen => ⟨gen, .ctx c, f 8 8, f 16 4, bit r 0, bit r 1, bit r 2, true⟩)
        complete s1 t.uid stOk (natLe 4 key))

/-- R367: a key that KEY_CREATE made. -/
def execKeyDestroy (n : Nat) (s : State) : Res :=
  onReq s n 0x0405 (fun t s =>
    let key := field t.fields 0 4
    match look s.keys (key % 65536) with
    | none => complete s t.uid stNotFound []
    | some k =>
      if !k.live || k.gen != key / 65536 || k.owner.ctxId == 0xFFFF then complete s t.uid stNotFound []
      else complete { s with keys := put s.keys (key % 65536) { k with live := false } } t.uid stOk [])

/-- The address of a setting. -/
def addrOf (x : Option (Nat × Nat × Nat)) : Option Nat := x.map (fun y => y.1)

/-- R356. -/
def execPortConfig (n : Nat) (s : State) : Res :=
  onReq s n 0x0401 (fun (t : Taken) (s : State) =>
    let f := field t.fields
    let p := f 0 1
    let fl : Nat := f 1 1
    let x : Port := s.port p
    let v4 := if bit fl 0 then some (f 16 16, f 2 1, f 32 16) else none
    let v6 := if bit fl 1 then some (f 48 16, f 3 1, f 64 16) else none
    let vlan := if bit fl 2 then some (f 4 2) else none
    let bad4 := match v4 with
      | some (a, l, g) => l == 0 || decide (32 < l) || !samePrefix a g (96 + l) 128
      | none => false
    let bad6 := match v6 with
      | some (a, l, g) => l == 0 || decide (128 < l) || !samePrefix a g l 128
      | none => false
    let badV := match vlan with
      | some v => v == 0 || decide (4094 < v)
      | none => false
    let lost4 := x.v4.isSome && addrOf x.v4 != addrOf v4
    let lost6 := x.v6.isSome && addrOf x.v6 != addrOf v6
    let mine := match look s.sess t.sess with
      | some y => (y.port == p || y.rings.any (fun r => r.1 == p))
          && (let l := localFor s p y.ip
              (lost4 && addrOf x.v4 == some l) || (lost6 && addrOf x.v6 == some l))
      | none => false
    if !portFitted s p || x.role == 0 then complete s t.uid stPort []
    else if bad4 || bad6 || badV then complete s t.uid stLimit []
    else if mine then complete s t.uid stBusy []
    else
      let s1 := s.setPort p { x with v4 := v4, v6 := v6, vlan := vlan }
      let gone := fun (a : Nat) => (lost4 && addrOf x.v4 == some a) || (lost6 && addrOf x.v6 == some a)
      let s2 := x.qps.foldl (fun (s : State) (q : Nat × Qp) => if q.2.live && gone q.2.localIp then qpError s p (q.2.num q.1) else s) s1
      complete s2 t.uid stOk [])

end Sys2Proof.Machine
end

