-- ==== Sys2Proof/Machine/HostRings.lean ====
section
/-! DEFINITION. Cellar cores and firmware (R425, R430 to R434, R448 to R456), the host rings (R436 to R447), lease and
reclaim (R457 to R461), TELEMETRY (R519). -/

set_option autoImplicit false

namespace Sys2Proof.Machine

/-- Local time of the boot die. -/
def bootTime (s : State) : Nat := (s.die s.fw.bootDie).time

/-- BAD_ENTRY names no context, so that every open session gets it (R446). -/
def badEntry (s : State) (ring idx : Nat) : State := postEvent s none s.fw.bootDie 6 (natLe 1 ring ++ zeros 7 ++ natLe 8 idx)

/-! ### Doorbells (R441) -/

/-- A session whose rings are served. -/
def served (s : State) (i : Nat) : Option Session :=
  if roleUp s s.fw.bootDie 3 then (look s.sess i).filter (fun x => x.opened && !x.expired) else none

/-- The VALUE of a doorbell slot, and whether its tag and SLOT hold. -/
def slotValue (x : Session) (n : Nat) : Nat × Bool :=
  let b := Mem.bytes x.space (0x1000 + 64 * n) 32
  (field b 0 8, slice b 16 16 == tagH x (slice b 0 16) && field b 8 1 == n)

/-- A doorbell: accepted when its tag holds and its value lies in the range, else a BAD_ENTRY event. -/
def doorbell (s : State) (i n : Nat) (last top : Session → Nat) (f : Session → Nat → Session) : State :=
  match served s i with
  | none => s
  | some x =>
    let (v, ok) := slotValue x n
    if ok && decide (last x < v) && decide (v ≤ top x) then s.setSess i (f x v) else badEntry s 3 v

def execDoorbellSubmission (sess : Nat) (s : State) : Res :=
  .next (doorbell s sess 0 Session.subProd (fun x => x.subCons + 2 ^ x.subLog) (fun x v => { x with subProd := v }))

def execDoorbellCompletion (sess : Nat) (s : State) : Res :=
  .next (doorbell s sess 1 Session.cplCons Session.cplProd (fun x v => { x with cplCons := v }))

/-- R441, R446: with space again, an OVERFLOW event comes first. -/
def execDoorbellEvent (sess : Nat) (s : State) : Res :=
  .next (doorbell s sess 2 Session.evtCons Session.evtProd (fun x v =>
    let y := { x with evtCons := v }
    if 0 < y.sinceOver ∧ y.evtRoom then { writeEvent y 7 s.fw.bootDie (bootTime s) (natLe 8 y.sinceOver) with sinceOver := 0 } else y))

/-! ### Taking submissions (R442 to R445) -/

/-- The request codes of R444. -/
def requestCodes : List Nat :=
  [0x0101, 0x0102, 0x0103, 0x0104, 0x0105, 0x0106, 0x0107, 0x0108, 0x0201, 0x0202, 0x0203, 0x0204, 0x0205, 0x0206, 0x0207,
   0x0208, 0x0301, 0x0401, 0x0402, 0x0403, 0x0404, 0x0405, 0x0501, 0x0502, 0x0503, 0x0601, 0x0602, 0x0603, 0x0604, 0x0701]

/-- The requests that pass their fields in the argument object (R443; log 36). -/
def inArgs (code : Nat) : Bool := [0x0201, 0x0301, 0x0401, 0x0402, 0x0501, 0x0603].contains code

/-- A session opened on a port without MACsec, where the owners require it: its requests complete with STATE (R376). -/
def State.barred (s : State) (x : Session) : Bool := s.norView.macsecReq && (s.port x.port).macsec.isNone

/-- R376, R440, R442, R443: the next entry is taken when a completion slot can be reserved; a bad tag skips it. -/
def execSubmissionTake (sess : Nat) (s : State) : Res :=
  .next (match served s sess with
    | none => s
    | some x =>
      if x.subProd ≤ x.subCons ∨ 2 ^ x.cplLog ≤ x.cplProd + x.cplHeld - x.cplCons then s else
      let b := Mem.bytes x.space (0x10000 + x.subCons % 2 ^ x.subLog * 64) 64
      if slice b 48 16 ≠ tagH x (slice b 0 48 ++ natLe 1 0 ++ natLe 8 x.subCons) then
        badEntry { s.setSess sess { x with subCons := x.subCons + 1 } with tagDrops := hold 16 s.tagDrops 1 } 0 x.subCons
      else
        let code := field b 0 2
        let args := slice b 8 40
        let s0 := s.setSess sess { x with subCons := x.subCons + 1, cplHeld := x.cplHeld + 1 }
        let off := field args 0 8
        let n := field args 8 4
        let place := argsAt s0 sess off n
        let s1 := match inArgs code, place with | true, some o => meetObj s0 0xFFFF o off n | _, _ => s0
        let t : Taken := ⟨s.nextUid, sess, code, field b 4 4,
          (match inArgs code, place with | true, some o => objRead s1 o off n | true, none => [] | false, _ => args), false⟩
        let s2 := { s1 with taken := s1.taken ++ [t], nextUid := s1.nextUid + 1 }
        if !requestCodes.contains code then complete s2 t.uid stUnknown []
        else if s.barred x then complete s2 t.uid stState []
        else if inArgs code && place.isNone then complete s2 t.uid stBadArgs []
        else s2)

/-! ### Nudges (R447) -/

/-- The 64 bytes of a nudge. -/
def nudgeBytes (i : Nat) (x : Session) : Bytes :=
  let b := natLe 2 0x4E4B ++ zeros 2 ++ natLe 4 i ++ natLe 8 x.nseq ++ natLe 8 x.evtProd ++ natLe 8 x.cplProd ++ natLe 8 x.subCons ++ zeros 8
  b ++ tagD x b

/-- Whether a nudge is due on a port: a threshold has been reached since the last one there, or since then an entry has been
unread for NUDGE_DELAY µs. -/
def nudgeDue (x : Session) (p now : Nat) : Bool :=
  let last := get 0 x.nudged p
  x.rose.contains p
    || (x.delay != 0 && (x.evtAt ++ x.cplAt).any (fun t => decide (t + 25 * x.delay ≤ now) && (decide (last < t + 25 * x.delay) || (look x.nudged p).isNone)))

/-- At most one nudge in 10 µs on each rings queue pair. -/
def execNudge (sess p : Nat) (s : State) : Res :=
  .next (match served s sess with
    | none => s
    | some x =>
      match x.rings.find? (fun r => r.1 == p) with
      | none => s
      | some (_, qpn) =>
        let now := bootTime s
        if !nudgeDue x p now || (match look x.nudged p with | some t => decide (now < t + 250) | none => false) then s else
        let s1 := s.setSess sess { x with nseq := x.nseq + 1, nudged := put x.nudged p now, rose := x.rose.filter (· != p) }
        pushPkts s1 p qpn [⟨0, 0, 0, true, false, true, 0, 0, nudgeBytes sess x, [], none⟩])

/-! ### Requests of the session itself -/

/-- R444: any object that is not STREAM. -/
def execArgsAttach (n : Nat) (s : State) : Res :=
  onReq s n 0x0601 (fun t s =>
    let i := field t.fields 0 4
    match s.obj i, look s.sess t.sess with
    | some o, some x =>
      if s.fenced (i / 2 ^ 17) then complete s t.uid stNotFound []
      else if o.policy = 3 then complete s t.uid stPolicy []
      else complete { s with sess := put s.sess t.sess { x with args := some i } } t.uid stOk []
    | _, _ => complete s t.uid stNotFound [])

/-- R444: it takes effect at the next touch. -/
def execLeaseSet (n : Nat) (s : State) : Res :=
  onReq s n 0x0602 (fun t s =>
    let ms := field t.fields 0 4
    let r := field t.fields 4 4
    if ms < 100 ∨ 60000 < ms ∨ 3600 < r then complete s t.uid stLimit []
    else match look s.sess t.sess with
      | some x => complete { s with sess := put s.sess t.sess { x with nextLease := some (ms, r) } } t.uid stOk []
      | none => complete s t.uid stNotFound [])

/-- 16 bits of a signed number. -/
def le16 (v : Int) : Bytes := natLe 2 (v % 65536).toNat

/-- The record of a die (R519). -/
def telemetryOf (s : State) (d : Nat) : Bytes :=
  let x := s.die d
  let cores := s.choose d 0 8
  let rates := cores.map (fun p => (s.core (68 * d + p)).hw.regs.paceRate)
  let watts := ((List.range 7).map (fun i => (get 0 x.sensors (8 + i)).toNat * (get 0 x.amps (8 + i)).toNat)).sum / 10000
  let used := ((List.range 4).filter (fun q => s.spareUsed d q)).length
  natLe 1 d ++ natLe 1 (b2n (s.fenced d)) ++ zeros 2 ++ natLe 2 (600 + 5 * x.actual) ++ natLe 2 ((get 0 x.amps 8).toNat / 10)
    ++ natLe 2 watts ++ zeros 2 ++ (List.range 8).flatMap (fun i => le16 (get 0 x.sensors i))
    ++ natLe 4 (rates.foldl Nat.min (2 ^ 20)) ++ natLe 4 (rates.foldl Nat.max 0) ++ natLe 1 x.adm ++ natLe 1 used ++ zeros 2
    ++ natLe 8 x.time ++ zeros 16

/-- R519. -/
def execTelemetry (n : Nat) (s : State) : Res :=
  onReq s n 0x0701 (fun t s => result s t (field t.fields 0 8) (s.dieList.flatMap (telemetryOf s)))

/-! ### Lease, expiry, reclaim (R457 to R461) -/

/-- R457: a COUNT above the last accepted one, with a valid tag. -/
def execLeaseTouch (sess : Nat) (s : State) : Res :=
  .next (match served s sess with
    | none => s
    | some x =>
      let b := Mem.bytes x.space 0x2000 32
      if slice b 16 16 ≠ tagH x (slice b 0 16) ∨ field b 0 8 ≤ x.count then s else
      let (ms, r) := x.nextLease.getD (x.leaseMs, x.reclaimS)
      s.setSess sess { x with count := field b 0 8, touched := bootTime s, leaseMs := ms, reclaimS := r, nextLease := none })

/-- The session key and the rings queue pairs of a session end. -/
def dropRings (s : State) (i : Nat) : State :=
  let s1 := { s with keys := mapAll s.keys (fun _ k => if k.owner = .rings i then { k with live := false } else k) }
  match look s1.sess i with
  | some x => x.rings.foldl (fun (s : State) r => endQp s r.1 r.2) s1
  | none => s1

/-- The contexts of a session. -/
def ctxsOf (s : State) (i : Nat) : List Nat := keysWhere s.ctxs (fun _ c => c.sess == i)

/-- Objects that a session created and that no context maps or pins are freed (R459). -/
def freeMade (s : State) (i : Nat) : State :=
  { s with objs := s.objs.filter (fun p => !(p.2.sess == i && p.2.maps == 0 && p.2.pins == 0 && p.2.work.isNone && p.2.queue.isEmpty)) }

/-- Whether racking still works on an object that `freeMade` would free. -/
def madeBusy (s : State) (i : Nat) : Bool :=
  s.objs.any (fun p => p.2.sess == i && p.2.maps == 0 && p.2.pins == 0 && (p.2.work.isSome || !p.2.queue.isEmpty))

/-- Nothing of a session is left. -/
def releaseSess (s : State) (i : Nat) : State :=
  let s1 := dropRings s i
  { s1 with sess := del s1.sess i, reclaims := s1.reclaims.filter (fun r => r.sess != i) }

/-- A session's header says CLOSING (R438). DESIGN CHOICE: while its contexts are torn down behind an UNLOAD or the end of its
reclaim window (log 80). -/
def closeSess (s : State) (i : Nat) : State :=
  match look s.sess i with
  | some x => if x.closing then s else s.setSess i { x with closing := true }
  | none => s

/-- A reclaim window ends (R459): the session's contexts are torn down; with none left its objects are freed, once racking is
done with them, and it is released. -/
def endReclaim (s0 : State) (i : Nat) : State :=
  let s := closeSess s0 i
  let s1 := (ctxsOf s i).foldl (fun (s : State) c => if (s.ctx c).st = .closing then s else beginTeardown s c none) s
  if (ctxsOf s1 i).isEmpty && !madeBusy s1 i then releaseSess (freeMade s1 i) i else s1

/-- What expiry does to one context (R458); a CC-M0 that restarts asks the cores behind its restart (R450). -/
def expireCtx (s : State) (c : Nat) : State :=
  match (s.ctx c).st with
  | .stopped => setCtxSt s c .retained 2
  | .held => setCtxSt s c .retained 2
  | .resident =>
    let p := (s.ctx c).part
    let s1 := (s.partCores p).foldl (fun (s : State) k => s.onCC k (fun x => { x with limit := some x.producer })) s
    let s2 := s1.setCtx c { s1.ctx c with leaseQuiesce := some (bootTime s) }
    let s2 := if roleUp s2 (p / 8) 0 then askQuiesce s2 p true else s2
    if (s2.part p).sw.isSome then s2 else s2.setPart p { s2.part p with sw := some ⟨none, 1, none, false⟩ }
  | _ => s

/-- The lease of a session expires (R390, R458): its contexts are RETAINED or on their way, it is kept under a reclaim
record, and with more than 16 windows open the oldest ends at once. -/
def expireSess (s : State) (i : Nat) : State :=
  match look s.sess i with
  | none => s
  | some x => if x.expired then s else
    let s1 := dropRings ((ctxsOf s i).foldl expireCtx s) i
    let s2 := match look s1.sess i with | some x => s1.setSess i { x with expired := true } | none => s1
    let s3 := { s2 with reclaims := s2.reclaims ++ [(⟨i, bootTime s + x.reclaimS * 25000000⟩ : Reclaim)] }
    match s3.reclaims.filter (fun r => decide (bootTime s < r.ends)) with
    | r :: rest => if 16 ≤ rest.length then
        endReclaim { s3 with reclaims := s3.reclaims.map (fun q => if q.sess = r.sess then { q with ends := bootTime s } else q) } r.sess else s3
    | [] => s3

/-- R457: no touch for the lease period. -/
def execLeaseExpiry (sess : Nat) (s : State) : Res :=
  .next (match look s.sess sess with
    | some x => if x.role = 2 ∨ bootTime s < x.touched + x.leaseMs * 25000 then s else expireSess s sess
    | none => s)

/-- R459: `rec` is the record's place among the reclaim records. -/
def execReclaimWindowEnd (rec : Nat) (s : State) : Res :=
  .next (match s.reclaims[rec]? with
    | some r => if r.ends ≤ bootTime s then endReclaim s r.sess else s
    | none => s)

/-- A context passes to another session (R460). -/
def passCtx (s : State) (new c : Nat) : State :=
  let x := s.ctx c
  let y := { x with
    sess := new, leaseQuiesce := none
    saved := mapAll x.saved (fun _ v => { v with cc := { v.cc with limit := none } }) }
  setCtxSt (s.setCtx c y) c (if ctxFits s x then .stopped else .held) 0

/-- R460: KEY mode, the same owner key, the token of a session in its reclaim window. The space of that session is released; a
context of it that is not RETAINED yet stays under its record. -/
def execCtxReclaim (n : Nat) (s : State) : Res :=
  onReq s n 0x0208 (fun t s =>
    match look s.sess t.sess with
    | none => s
    | some x =>
      let hit := s.reclaims.find? (fun r => decide (bootTime s < r.ends) && match look s.sess r.sess with
        | some y => y.mode == 0 && y.keyHash == x.keyHash && y.token == field t.fields 0 8
        | none => false)
      match x.mode, hit with
      | 0, some r =>
        let old := r.sess
        let cs := (ctxsOf s old).filter (fun c => (s.ctx c).st == .retained)
        let s1 := cs.foldl (fun (s : State) c => passCtx s t.sess c) s
        let s2 := { s1 with objs := mapAll s1.objs (fun _ o => if o.sess = old then { o with sess := t.sess } else o) }
        complete (if (ctxsOf s2 old).isEmpty then releaseSess s2 old
          else s2.onSess old (fun y => { y with space := [], opened := false })) t.uid stOk []
      | _, _ => complete s t.uid stBadToken [])

/-- R461: the teardowns begin; once they and the racking of its objects are done, the objects are freed and the request
completes. -/
def execUnload (n : Nat) (s : State) : Res :=
  onReq s n 0x0604 (fun t s =>
    let s1 := (ctxsOf s t.sess).foldl (fun (s : State) c => if (s.ctx c).st = .closing then s else beginTeardown s c none) (closeSess s t.sess)
    if !(ctxsOf s1 t.sess).isEmpty || madeBusy s1 t.sess then s1 else
    let s2 := freeMade s1 t.sess
    match look s2.sess t.sess with
    | some x => complete { s2 with sess := put s2.sess t.sess { x with unloaded := true } } t.uid stOk []
    | none => s2)

/-! ### Firmware images (R431, R432) -/

/-- The segments of an image: KIND, ROLE, OFFSET, LENGTH, LOAD. -/
def segments (b : Bytes) : List (Nat × Nat × Nat × Nat × Nat) :=
  (List.range (field b 6 2)).map (fun i =>
    let e := slice b (0x80 + 32 * i) 32
    (field e 0 1, field e 1 1, field e 4 4, field e 8 4, field e 12 8))

/-- R432: the checks, whose order does not show, since each gives BAD_IMAGE. -/
def imageOk (s : State) (b : Bytes) (n : Nat) : Bool :=
  let len := field b 0x18 4
  let segs := segments b
  let key := slice b 0x480 1952
  field b 0 4 == 0x4D57464B && field b 4 2 == 1 && len == n && decide (len ≤ 64 * 1048576) && decide (0xC20 + 3309 ≤ len)
    && field b 0x1C 1 == 2 && bit (field b 0x1D 1) s.model.code
    && decide (1 ≤ segs.length) && decide (segs.length ≤ 32)
    && segs.all (fun g => decide (g.2.2.1 + g.2.2.2.1 ≤ len) && (g.1 != 1 || decide (g.2.2.2.1 ≤ 524288)))
    && (List.range 4).all (fun r => (segs.filter (fun g => g.1 == 1 && g.2.1 == r)).length == 1)
    && Config.vendorOk (fit 32 (Config.shake key 256))
    && slice b 0x20 64 == fit 64 (Config.shake (slice b 0 0x20 ++ slice b 0x80 (len - 3309 - 0x80)) 512)
    && Config.dsaOk key (slice b 0x20 64) (slice b (len - 3309) 3309)

/-- What the module keeps of an image (R433; log 51); its digest is the measurement of R393. -/
def imageOf (b : Bytes) (n : Nat) : Image :=
  ⟨field b 8 8, field b 0x10 2, field b 0x12 2, fit 64 (Config.shake (slice b 0 n) 512),
    ((segments b).filter (fun g => g.1 == 1)).map (fun g => (g.2.1, slice b g.2.2.1 g.2.2.2.1))⟩

/-- The firmware area of a die (R269). -/
def fwArea (d : Nat) : Nat := d * 2 ^ 42 + 0xFF0000000

/-- Units whose logged errors reached a threshold since the map's last generation (R511): ERRORS entries behind the last
COPPICE entry. The body holds a map entry and the count. -/
def loggedUnits (s : State) : List MapEntry :=
  let l := (s.nor.log.reverse.takeWhile (fun e => e.type != 2)).reverse
  l.filterMap (fun e =>
    if e.type ≠ 6 then none
    else
      let kind := field e.body 0 1
      let top := match kind with | 1 => 64 | 5 => 1024 | 12 => 2 | 13 => 1 | _ => 3
      if top ≤ field e.body 16 4 then
        some ⟨if 12 ≤ kind then 1 else kind, field e.body 1 1, 0, 1, field e.body 4 2, field e.body 6 2, field e.body 8 8⟩
      else none)

/-- AVAIL.COUNTS as it stands (R516): service time runs on while the firmware serves. -/
def serviceMin (s : State) : Nat :=
  (s.service + (if s.fw.inService then bootTime s - s.fw.serviceAt else 0)) / 1500000000

def availBytes (s : State) : Bytes := natLe 4 (s.interrupted / 1000) ++ natLe 4 (serviceMin s)

/-- Time interrupted since an L4 or L5 (R516), in µs. -/
def downUs (s : State) : Nat := match s.power.downAt with | some t => (bootTime s - t) / 25 | none => 0

/-- The CODE segment of a role; CC-MS holds none before it takes one (R433, R452). -/
def segOf (ss : List (Nat × Bytes)) (role : Nat) : Bytes := ((ss.find? (fun g => g.1 == role)).map Prod.snd).getD []

/-- From a good image to service (R433): DATA segments go to the boot die's firmware area, the cellar cores of every unfenced die
start with their segments and copies, the other ports start, the log takes a START entry (R520). No attempt to open a session of
the boot responder stands any more (R395). -/
def toService (s : State) (b : Bytes) (n : Nat) : State :=
  let boot := s.fw.bootDie
  let s1 := (segments b).foldl (fun (s : State) g =>
    if g.1 = 2 then wrPhys s (fwArea boot + g.2.2.2.2) (slice b g.2.2.1 g.2.2.2.1) false else s) s
  let s2 := s1.dieList.foldl (fun (s : State) d => if s.fenced d then s else
    s.setDie d { s.die d with
      segs := (imageOf b n).code
      cellar := (List.range 5).map (fun i => (i, { CellarCore.init with
        st := if i = 4 then 5 else 1, role := if i = 4 then 7 else i, kick := (s.die d).time, code := segOf (imageOf b n).code i })) }) s1
  let t2 := addInterrupted s2 (downUs s2)
  let s3 := { t2 with
    attempts := []
    fw := { t2.fw with loaded := true, inService := true, image := imageOf b n, serviceAt := bootTime t2 }
    power := { t2.power with downAt := none } }
  let s4 := (List.range s3.model.ports).foldl (fun (s : State) p =>
    if portDie p = boot ∨ s.fenced (portDie p) then s else portStart s p) s3
  let s5 := if s4.power.abrupt then
      (loggedUnits s4).foldl (fun (s : State) e => if s.maps.any (fun x => x.same e) then s else mapSet s e) s4
    else s4
  logEntry { s5 with power := { s5.power with abrupt := false } } 5 boot
    (natLe 8 (field b 8 8) ++ natLe 1 boot ++ natLe 1 ((s5.power.fenced.map (2 ^ ·)).sum) ++ availBytes s5)

/-! ### Live update (R454 to R456) -/

/-- The cellar cores in the order of an update; it passes by those of a fenced die. -/
def updateOrder (s : State) : List (Nat × Nat) := s.dieList.flatMap (fun d => [1, 2, 0, 3, 4].map (fun n => (d, n)))

/-- A restart of a cellar core begins (R449): STATE is RESTARTING, or UPDATING for an update, and its role pauses until it ends
(R450). DESIGN CHOICE: it lasts its bound, `len` periods (log 80). The CELLAR event with WHAT follows at its end. -/
def restartCore (s : State) (d n st what len : Nat) (code : Bytes) : State :=
  let c := cellarCore s d n
  let now := (s.die d).time
  setCellar s d n { c with
    st := st, restarts := hold 8 c.restarts 1, lastRestart := some now, kick := now, code := code, ends := some (now + len, what) }

/-- The bounds of R449 and R452 in periods of 25 MHz: a restart; one whose segment comes from the copy; the spare's. -/
def soloLen : Nat := 6250
def copyLen : Nat := 56250
def spareLen : Nat := 62500

/-- The header of a session message (R384): TYPE, LENGTH, SESSION, SEQ. -/
def sessHead (type len id seq : Nat) : Bytes :=
  natLe 2 0x564B ++ natLe 1 type ++ zeros 1 ++ natLe 2 len ++ zeros 2 ++ natLe 4 id ++ natLe 4 seq

/-- REFUSE (R391). -/
def refuseMsg (code : Nat) : Bytes := sessHead 6 17 0 0 ++ natLe 1 code

/-- The state of a CC-M3 that a restart clears (R453): attempts short of ACCEPT; a repeat gets TIMEOUT. -/
def loseAttempts (s : State) (d : Nat) : State :=
  if d ≠ s.fw.bootDie then s else
  { s with attempts := s.attempts.map (fun a => if a.answer.isNone then { a with cert := [], proof := [], answer := some (6, refuseMsg 9) } else a) }

/-- A role that restarts: an apply short of step 5 is abandoned, session attempts are lost (R453). -/
def rolePause (s : State) (d role : Nat) : State :=
  if role = 0 then (match s.trellis.applying with
    | some (d', _, _, _) => if d' = d then abandonApply s else s
    | none => s)
  else if role = 3 then loseAttempts s d else s

/-- A core's restart ends (R449 step 5): it runs its role again, a spare stands by again, and its CELLAR event follows. CC-M0 asks
the cores of contexts whose lease ran out meanwhile to quiesce (R450). -/
def endRestart (s : State) (d n : Nat) : State :=
  let c := cellarCore s d n
  match c.ends with
  | none => s
  | some (_, what) =>
    if s.fenced d then s else
    let s1 := cellarEvent (setCellar s d n { c with st := if c.role = 7 then 5 else 1, ends := none }) d n what
    if c.role = 0 then s1.parts.foldl (fun (s : State) p => if p.1 / 8 = d ∧ leaving s p.1 then askQuiesce s p.1 true else s) s1 else s1

/-- The core at a place of the order is updated (R455): it restarts with the new segment. One that is retired is passed by. -/
def updateCore (s : State) (im : Image) (i : Nat) : State :=
  match (updateOrder s)[i]? with
  | none => s
  | some (d, n) =>
    let c := cellarCore s d n
    if c.st = 4 ∨ s.fenced d then s else rolePause (restartCore s d n 3 2 soloLen (segOf im.code c.role)) d c.role

/-- The update has passed the last core (R455): the copies are replaced, the headers show the new release (R438), and FW_UPDATE
completes. -/
def endUpdate (s : State) (im : Image) (uid : Nat) : State :=
  let s1 := { s with
    fw := { s.fw with update := none, image := im }
    dies := mapAll s.dies (fun d x => if s.fenced d then x else { x with segs := im.code }) }
  complete (s1.sess.foldl (fun (s : State) x => match look s.sess x.1 with | some y => s.setSess x.1 y | none => s) s1) uid stOk []

/-- The update goes on from the core at a place that has started, to the next or to its end. -/
def updateNext (s : State) : State :=
  match s.fw.update with
  | none => s
  | some (im, uid, i) =>
    let s1 := match (updateOrder s)[i]? with | some (d, n) => endRestart s d n | none => s
    if i + 1 < (updateOrder s1).length then updateCore { s1 with fw := { s1.fw with update := some (im, uid, i + 1) } } im (i + 1)
    else endUpdate s1 im uid

/-- The update goes on over so many cores. -/
def updateOn : Nat → State → State
  | 0, s => s
  | n + 1, s => updateOn n (updateNext s)

/-- The watchdog of an updated core has expired within 1 s of its restart (R456): an FW_WDOG fault, every core that runs the new
image restarts with the previous one, and FW_UPDATE fails. The core is not retired for it. -/
def failUpdate (s : State) (d n : Nat) : State :=
  match s.fw.update with
  | none => s
  | some (_, uid, i) =>
    let w := hold 8 (cellarCore s d n).wdog 1
    let s1 := report (setCellar s d n { cellarCore s d n with wdog := w }) { Fault64.blank with cls := 9, sev := 2, die := d, unit := 13, index := n, b := w }
    let s2 := ((updateOrder s).take (i + 1)).foldl (fun (s : State) c =>
      let x := cellarCore s c.1 c.2
      if x.st = 4 ∨ s.fenced c.1 then s else rolePause (restartCore s c.1 c.2 2 0 soloLen (segOf (s.die c.1).segs x.role)) c.1 x.role) s1
    complete { cellarEvent s2 d n 3 with fw := { s2.fw with update := none } } uid stUpdateFailed []

/-- FW_UPDATE: a request not yet begun is checked and begins with the first core. The same request again stands for the time that
the update takes: on every core, or as far as the core that `expired` names, whose watchdog ran out. -/
def execFwUpdate (n : Nat) (expired : Option Nat) (s : State) : Res :=
  match s.fw.update, s.taken[n]? with
  | some (_, uid, i), some t =>
    if t.uid = uid then
      let order := updateOrder s
      match expired with
      | none => .next (updateOn (order.length - i) s)
      | some j =>
        let s1 := updateOn (Nat.min j (order.length - 1) - i) s
        .next (match s1.fw.update with
          | some (_, _, k) => let c := nth (s.fw.bootDie, 0) order k
                              failUpdate s1 c.1 c.2
          | none => s1)
    else onReq s n 0x0603 (fun t s => complete s t.uid stBusy [])
  | _, _ => onReq s n 0x0603 (fun t s =>
      let b := t.fields
      if s.fw.update.isSome then complete s t.uid stBusy []
      else if !imageOk s b b.length then complete s t.uid stBadImage []
      else if !bit (field b 0x14 4) 0 || field b 0x10 2 != s.fw.image.major || field b 0x12 2 != s.fw.image.schema then
        complete s t.uid stIncompatible []
      else
        let im := imageOf b b.length
        updateCore (running { s with fw := { s.fw with update := some (im, t.uid, 0) } } t.uid) im 0)

/-! ### Watchdogs (R448 to R453) -/

/-- R448, R462. -/
def execWatchdogKick (d n : Nat) (s : State) : Res :=
  onUnit d n 5 s (fun s => setCellar s d n { cellarCore s d n with kick := (s.die d).time })

/-- Whether a core runs the image of a live update since less than 1 s (R456). -/
def updated (s : State) (d n : Nat) : Bool :=
  match s.fw.update with
  | none => false
  | some (_, _, i) => ((updateOrder s).take (i + 1)).contains (d, n)
      && (match (cellarCore s d n).lastRestart with | some t => decide ((s.die d).time < t + 25000000) | none => false)

/-- R448 to R452: the watchdog expires; the core restarts alone, or is retired and CC-MS takes its role; with no spare left
the die is fenced, or the module reset when it is the boot die (R474). `imageOk` and `copyOk` say whether its protected
image and its copy pass their checks. -/
def execFwWdog (d n : Nat) (imageOk copyOk : Bool) (s : State) : Res :=
  onUnit d n 5 s (fun s =>
    let c := cellarCore s d n
    let now := (s.die d).time
    if (c.st ≠ 1 ∧ c.st ≠ 5) ∨ s.fenced d ∨ now < c.kick + Nat.max 1 c.window * 25000 then s else
    if updated s d n then failUpdate s d n else
    let w := hold 8 c.wdog 1
    let again := match c.lastRestart with | some t => decide (now < t + 25000000) | none => false
    let alone := !again && (imageOk || copyOk)
    let lost := !alone && c.st != 5 && (n == 4 || (cellarCore s d 4).st != 5)
    let s1 := report (setCellar s d n { c with wdog := w }) { Fault64.blank with
      cls := 9, sev := if !lost then 2 else if d = s.fw.bootDie then 5 else 4, die := d, unit := 13, index := n, b := w }
    let copy := segOf (s.die d).segs c.role
    if alone then rolePause (restartCore s1 d n 2 0 (if imageOk then soloLen else copyLen) (if imageOk then c.code else copy)) d c.role
    else
      let s2 := rolePause (setCellar s1 d n { cellarCore s1 d n with st := 4, role := 7, code := [] }) d c.role
      let spare := cellarCore s2 d 4
      if n ≠ 4 ∧ spare.st = 5 then
        mapSet (restartCore (setCellar s2 d 4 { spare with role := c.role }) d 4 2 1 spareLen copy) ⟨9, d, 1, 3, n, 0, 0⟩
      else
        let s3 := mapSet s2 ⟨9, d, 2, 3, n, 0, 0⟩
        if c.st = 5 then s3 else if d = s.fw.bootDie then callL4 s3 else callL3 s3 d)

/-! ### The empty queue -/

/-- Restarts of cellar cores that end now, and the live update that goes on (R449, R455). -/
def endRestarts (s : State) : State :=
  let ended := fun (s : State) (d n : Nat) => match (cellarCore s d n).ends with | some e => decide (e.1 ≤ (s.die d).time) | none => false
  let s1 := s.dieList.foldl (fun (s : State) d => if !(s.die d).cellar.any (fun c => c.2.ends.isSome) then s else
    (List.range 5).foldl (fun (s : State) n =>
      if ended s d n && !(cellarCore s d n).st == 3 then endRestart s d n else s) s) s
  match s1.fw.update with
  | some (_, _, i) => (match (updateOrder s1)[i]? with
      | some (d, n) => if (cellarCore s1 d n).ends.isNone || ended s1 d n then updateNext s1 else s1
      | none => s1)
  | none => s1

/-- An empty queue: one period of the 25 MHz reference passes and every cellar counts it (R75, R427; log 3). Log entries that
wait go to NOR as a new minute lets them (R521), and restarts of cellar cores end. VE writes land: the 8 beats of R202 are shorter
than the period (log 3). -/
def idleTick (s : State) : State :=
  if s.power.standby then
    endRestarts (drainLog (landWrites { s with dies := mapAll s.dies (fun _ x => { x with time := x.time + 1 }) }))
  else s

end Sys2Proof.Machine
end

