-- ==== Sys2Proof/Machine/Sessions.lean ====
section
/-! DEFINITION. Sessions, owners, attestation and the boot responder (R374 to R395), RINGS_OPEN (R436), and the reset and
dump requests (R497, R512). -/

set_option autoImplicit false

namespace Sys2Proof.Machine

def owned (s : State) : Bool := !s.norView.owners.isEmpty

/-- Whether session messages on a port are read (R385, R394, R433): by CC-M3 on a HOST port, before the firmware by the
boot die's ROM on its own port. -/
def listens (s : State) (p : Nat) : Bool :=
  (s.port p).up && !s.fw.stopping && (if s.fw.inService then roleUp s s.fw.bootDie 3 && ((s.port p).role == 1 || (s.port p).role == 3)
    else s.fw.elected && portDie p == s.fw.bootDie)

/-- A message of R384 of a type. -/
def msgOk (m : Datagram) (type : Nat) : Bool :=
  let b := m.body
  decide (16 ≤ b.length) && decide (b.length ≤ 8952) && field b 0 2 == 0x564B && field b 4 2 == b.length && field b 2 1 == type

def tell (s : State) (p ip type : Nat) (body : Bytes) : State := portSend s p 0 ip (.sess p ip type body)

def openCount (s : State) : Nat := (s.sess.filter (fun p => !p.2.expired)).length
def bootOpen (s : State) : Bool := s.sess.any (fun p => p.2.role == 2)
def ownerOf (s : State) (h : Bytes) : Option OwnerKey := s.norView.owners.find? (fun o => o.hash == h)

/-- Whether MODE and KEY_HASH are admitted (R387, R394): none, or the code of REFUSE. -/
def modeCode (s : State) (mode : Nat) (h : Bytes) : Option Nat :=
  let key := if (ownerOf s h).isSome then none else some 3
  if s.fw.inService then
    match mode with
    | 0 => if owned s then key else some 2
    | 1 => if owned s && s.norView.pwAllowed then none else some 2
    | 2 => if owned s then some 8 else none
    | _ => some 2
  else
    let strict := owned s && s.norView.bootAuth
    match mode with
    | 0 => if strict then key else some 2
    | 1 => if strict && s.norView.pwAllowed then none else some 2
    | 2 => if owned s then some 8 else some 2
    | 3 => if strict then some 2 else none
    | _ => some 2

/-- LOCKED, FULL and BUSY (R391). -/
def limitCode (s : State) (mode : Nat) : Option Nat :=
  if (mode = 1 ∨ mode = 2) ∧ s.lockUntil.isSome then some 5
  else if 8 ≤ openCount s then some 6
  else if !s.fw.inService && bootOpen s then some 7
  else none

/-- R385 step 2, R389. -/
def execHostHello (m : Datagram) (s : State) : Res :=
  let b := m.body
  let ip := m.src.toNat
  if !listens s m.port || !msgOk m 1 || b.length != 1268 then .next s else
  let nonce := slice b 20 32
  let mode := field b 18 1
  let h := slice b 52 32
  let send := fun (s : State) (a : Attempt) =>
    if a.cert.isEmpty then tell s m.port ip 6 (refuseMsg 9) else tell (tell s m.port ip 2 a.cert) m.port ip 3 a.proof
  .next (match s.attempts.find? (fun a => a.ip == ip && a.nonce == nonce) with
    | some a => send s a
    | none =>
      let s0 := { s with attempts := s.attempts.filter (fun a => a.ip != ip) }
      let code := if s.fw.inService && field b 16 2 != s.fw.image.major then some 1
        else match modeCode s mode h with
          | some c => some c
          | none => limitCode s mode
      match code with
      | some c => tell s0 m.port ip 6 (refuseMsg c)
      | none =>
        let n := s.free
        let ek := slice b 84 1184
        let (nd, s1) := freeBytes s0 32
        let crt := Config.cert.take 6144
        let cert := sessHead 2 (20 + crt.length) 0 0 ++ natLe 2 crt.length ++ zeros 2 ++ crt
        let pre := sessHead 3 4445 0 0 ++ nd ++ fit 1088 (Config.kemCt ek n)
        let th1 := Config.shake (b ++ cert ++ pre) 512
        let sig := fit 3309 (Config.dsaSign th1 n)
        let a : Attempt := ⟨ip, m.port, mode, h, nonce, cert, pre ++ sig, Config.kemSs ek n, Config.shake (th1 ++ sig) 512, bootTime s, none⟩
        send { s1 with attempts := s1.attempts ++ [a] } a)

/-- R385, R391: no HOST_PROOF within 5 s. -/
def execSessionProofTimeout (src : BitVec 128) (s : State) : Res :=
  .next (match s.attempts.find? (fun a => a.ip == src.toNat && a.answer.isNone) with
    | some a => if bootTime s < a.since + 125000000 then s else
        tell { s with attempts := s.attempts.filter (fun x => x.ip != src.toNat) } a.port a.ip 6 (refuseMsg 9)
    | none => s)

/-- The 12 symbols of a claim code, without hyphens, in capitals (R379). -/
def claimSymbols (b : Bytes) : Bytes :=
  (b.filter (fun c => c != 0x2D)).map (fun c => if 0x61 ≤ c.toNat ∧ c.toNat ≤ 0x7A then c - 0x20 else c)

/-- Tag of a message before its session stands. -/
def tagUnder (master : Bytes) (name : String) (msg : Bytes) : Bytes := fit 16 (Config.kmac (keyOf master name) msg 128 cTag)

/-- What a message carries before its tag, and whether the tag holds. -/
def untag (master : Bytes) (b : Bytes) : Bytes × Bool :=
  let body := b.take (b.length - 16)
  (body, b.drop (b.length - 16) == tagUnder master "H2D" body)

/-- The secret of a HOST_PROOF (R386). -/
def secretOf (master b : Bytes) : Option Bytes :=
  Config.gcmOpen (keyOf master "ENC") (zeros 12) (slice b 0 16) (slice b 20 (field b 16 1 + 16))

/-- What a HOST_PROOF proves (R385 step 4, R387, R391): none, or the code of REFUSE. -/
def proofCode (s : State) (a : Attempt) (master b : Bytes) : Option Nat :=
  let (body, ok) := untag master b
  let n := field b 16 1
  match modeCode s a.mode a.keyHash with
  | some c => some c
  | none => match limitCode s a.mode with
    | some c => some c
    | none =>
      if !ok then some 4 else
      match a.mode with
      | 0 => (match ownerOf s a.keyHash with
        | some o => if body.length = 16 + 3309 ∧ Config.dsaOk o.key a.th2 (slice b 16 3309) then none else some 4
        | none => some 3)
      | 1 => (match secretOf master b, s.norView.password with
        | some x, some (salt, v) =>
          if body.length = 20 + n + 16 ∧ fit 32 (Config.kmac salt x 256 cPassword) = v then none else some 4
        | _, _ => some 4)
      | 2 => if !norFree s then some 7 else (match secretOf master b with
        | some x => if body.length = 20 + n + 16 + 1952 ∧ fit 32 (Config.kmac Config.claimSalt (claimSymbols x) 256 cClaim) = fit 32 Config.claimVerifier
            then none else some 4
        | none => some 4)
      | _ => if body.length = 16 then none else some 4

/-- A session as ACCEPT opens it (R385, R388, R457). -/
def newSession (a : Attempt) (master : Bytes) (role token now : Nat) : Session where
  ip := a.ip
  port := a.port
  role := role
  mode := a.mode
  keyHash := a.keyHash
  master := master
  seqIn := 0
  seqOut := 0
  lastReq := 0
  lastResp := none
  token := token
  expired := false
  closing := false
  unloaded := false
  rings := []
  opened := false
  subLog := 6
  cplLog := 6
  evtLog := 6
  evtThr := 1
  cplThr := 1
  delay := 0
  space := []
  args := none
  subCons := 0
  subProd := 0
  cplProd := 0
  cplCons := 0
  cplHeld := 0
  evtProd := 0
  evtCons := 0
  faultProd := 0
  evtDropped := 0
  sinceOver := 0
  leaseMs := 2000
  reclaimS := 120
  nextLease := none
  count := 0
  touched := now
  nseq := 0
  nudged := []
  lastMsg := now
  evtAt := []
  cplAt := []
  rose := []

/-- The failures of the password and claim modes after a proof of one of them: one more, or none left of that mode (R381). -/
def tryOf (x : Nat × Nat) (mode : Nat) (fails : Bool) : Nat × Nat :=
  let n := fun (v : Nat) => if fails then v + 1 else 0
  if mode = 1 then (n x.1, x.2) else (x.1, n x.2)

/-- A failed password or claim proof counts; from the fifth on the lock runs (R381). -/
def failProof (s : State) (mode : Nat) : State :=
  let n := s.failures + 1
  noteId { s with lockUntil := if 5 ≤ n then some (bootTime s + lockTicks n) else s.lockUntil }
    (fun w => { w with failures := some (tryOf s.fails mode true) })

/-- R385 step 4, R389: a repeated proof gets the same answer again. -/
def execHostProof (m : Datagram) (s : State) : Res :=
  let b := m.body
  let ip := m.src.toNat
  if !listens s m.port || !msgOk m 4 || decide (b.length < 32) then .next s else
  .next (match s.attempts.find? (fun a => a.ip == ip) with
    | none => s
    | some a =>
      match a.answer with
      | some (type, msg) => tell s m.port ip type msg
      | none =>
        let master := Config.kmac a.ss a.th2 256 cSession
        let close := fun (s : State) (type : Nat) (msg : Bytes) => tell { s with
          attempts := s.attempts.map (fun x => if x.ip = ip then { x with answer := some (type, msg) } else x) } m.port ip type msg
        match proofCode s a master b with
        | some c => close (if c = 4 ∧ (a.mode = 1 ∨ a.mode = 2) then failProof s a.mode else s) 6 (refuseMsg c)
        | none =>
          let s1 := if a.mode = 1 ∨ a.mode = 2 then noteId { s with lockUntil := none } (fun w => { w with failures := some (tryOf s.fails a.mode false) }) else s
          let key := slice b (20 + field b 16 1 + 16) 1952
          let s2 := if a.mode = 2 then { s1 with nor := { s1.nor with owners := [⟨true, key, fit 32 (Config.shake key 256)⟩] }.commit } else s1
          let role := if !s.fw.inService then 2
            else match a.mode with
              | 0 => (match ownerOf s a.keyHash with | some o => b2n o.admin | none => 0)
              | 1 => 0
              | _ => 1
          let (tok, s3) := freeBytes s2 8
          let id := s3.nextSess
          let msg := sessHead 5 44 id 0 ++ natLe 1 role ++ zeros 3 ++ tok
          close { s3 with
            nextSess := id + 1, sess := put s3.sess id (newSession { a with port := m.port } master role (leNat tok) (bootTime s)) }
            5 (msg ++ tagUnder master "D2H" msg))

/-- R381. -/
def execProofLockEnd (s : State) : Res :=
  .next (match s.lockUntil with
    | some t => if t ≤ bootTime s then { s with lockUntil := none } else s
    | none => s)

/-- A boot session ends: its key and queue pair with it (R394, R395). -/
def endBoot (s : State) (id : Nat) : State :=
  let s1 := { s with keys := mapAll s.keys (fun _ (k : Key) => if k.owner = Owner.boot then { k with live := false } else k) }
  let s2 := s1.ports.foldl (fun (s : State) (p : Nat × Port) => p.2.qps.foldl (fun (s : State) (q : Nat × Qp) =>
    if q.2.live && q.2.owner == Owner.boot then endQp s p.1 (q.2.num q.1) else s) s) s1
  { s2 with sess := del s2.sess id, fw := { s2.fw with staging := [] } }

/-- R394: no message for 10 s. -/
def execBootSessionIdle (s : State) : Res :=
  .next (match s.sess.find? (fun (p : Nat × Session) => p.2.role == 2) with
    | some (id, x) => if bootTime s < x.lastMsg + 250000000 then s else endBoot s id
    | none => s)

/-! ### Messages of a session (R388 to R390) -/

/-- The session that a message names, from its host's address. -/
def sessOf (s : State) (m : Datagram) (type : Nat) : Option (Nat × Session) :=
  if !listens s m.port || !msgOk m type || decide (m.body.length < 32) then none
  else match look s.sess (field m.body 8 4) with
    | some x => if x.expired || x.ip != m.src.toNat then none else some (field m.body 8 4, x)
    | none => none

def dropTag (s : State) : State := { s with tagDrops := hold 16 s.tagDrops 1 }

/-- R390, R461: CLOSE ends the session; without a completed UNLOAD it is taken as lease expiry. -/
def execClose (m : Datagram) (s : State) : Res :=
  .next (match sessOf s m 0x12 with
    | none => s
    | some (id, x) =>
      if !(untag x.master m.body).2 || decide (field m.body 12 4 ≤ x.seqIn) then dropTag s
      else if x.role = 2 then endBoot s id
      else if x.unloaded then releaseSess s id
      else expireSess s id)

/-- What a request answers: status, data, state. -/
abbrev Answer := Nat × Bytes × State

/-- Roles that a request needs (R382): any; ADMIN; the boot session; any but the boot session. -/
inductive Need
  | any | admin | boot | service
  deriving DecidableEq, Repr

/-- A wrong role is answered with STATE (log 37). -/
def Need.met : Need → Nat → Bool
  | .any, _ => true
  | .admin, r => r == 1
  | .boot, r => r == 2
  | .service, r => r != 2

/-- Send a RESPONSE under the next SEQ and keep it for a repeat (R384, R388, R389). -/
def respond (s : State) (id p ip seq status : Nat) (data : Bytes) : State :=
  match look s.sess id with
  | none => s
  | some x =>
    let msg := sessHead 0x11 (36 + data.length) id (x.seqOut + 1) ++ natLe 2 status ++ zeros 2 ++ data
    let full := msg ++ tagD x msg
    tell { s with sess := put s.sess id { x with seqOut := x.seqOut + 1, lastReq := seq, lastResp := some full } } p ip 0x11 full

/-- A REQUEST of a code: `f` gets the session's ID, the session, the request and its fields; `after` runs behind the
RESPONSE. A REQUEST that repeats the last SEQ gets its RESPONSE again (R376, R382, R383, R388, R389). -/
def onSessReq (m : Datagram) (code : Nat → Bool) (need : Need) (s : State) (f : Nat → Session → Bytes → State → Answer)
    (after : Nat → Nat → State → State) : Res :=
  .next (match sessOf s m 0x10 with
    | none => s
    | some (id, x) =>
      let b := m.body
      let seq := field b 12 4
      let c := field b 16 2
      if !code c then s
      else if !(untag x.master b).2 || decide (b.length < 36) then dropTag s
      else if seq = x.lastReq ∧ x.lastResp.isSome then
        tell { s with sess := put s.sess id { x with lastMsg := bootTime s } } m.port x.ip 0x11 (x.lastResp.getD [])
      else if seq ≤ x.seqIn then dropTag s
      else
        let s1 := { s with sess := put s.sess id { x with seqIn := seq, lastMsg := bootTime s } }
        let (st, data, s2) := if (s.barred x && c != 8) || !need.met x.role then (stState, [], s1)
          else f id x ((b.take (b.length - 16)).drop 20) s1
        after st id (respond s2 id m.port x.ip seq st data))

def keep : Nat → Nat → State → State := fun _ _ s => s

/-- R383: a code that the table of requests does not hold. -/
def execUnknownSessionRequest (m : Datagram) (s : State) : Res :=
  onSessReq m (fun c => c == 0 || decide (0x10 < c)) .any s (fun _ _ _ s => (stUnknown, [], s)) keep

/-! ### Attestation (R392, R393) -/

def attEntry (kind idx : Nat) (digest : Bytes) : Bytes := natLe 1 kind ++ natLe 1 idx ++ zeros 6 ++ fit 64 digest

/-- Owner keys and policy as measured. -/
def ownerBytes (n : Nor) : Bytes :=
  n.owners.flatMap (fun o => natLe 1 (b2n o.admin) ++ o.key)
    ++ natLe 1 (b2n n.signed + 2 * b2n n.pwAllowed + 4 * b2n n.macsecReq + 8 * b2n n.bootAuth)

def attEntries (s : State) : List Bytes :=
  (s.dieList.filter (fun d => !s.fenced d)).map (fun d => attEntry 1 d (Config.shake (Config.bootRom d) 512))
    ++ [attEntry 2 0 s.fw.image.digest, attEntry 3 0 s.fw.startMap, attEntry 4 0 (Config.shake (ownerBytes s.norView) 512),
        attEntry 5 0 s.trellis.digest]
    ++ s.trellis.partDigests.map (fun p => attEntry 6 p.1 p.2)

def execAttest (m : Datagram) (s : State) : Res :=
  onSessReq m (· == 1) .any s (fun _ _ fs s =>
    let es := attEntries s
    let r := natLe 4 0x5441564B ++ natLe 2 1 ++ natLe 2 es.length ++ natLe 1 s.model.code ++ natLe 1 2 ++ zeros 6
      ++ fit 32 (Config.shake Config.deviceKey 256) ++ fit 32 fs ++ zeros 16 ++ es.flatten
    (stOk, r ++ fit 3309 (Config.dsaSign r s.free), { s with free := s.free + 1 })) keep

/-! ### Owners (R378 to R382) -/

/-- Change the identity record, unless the supply guard is at Hold or NOR does not answer (R72, R382). -/
def onNor (s : State) (f : Nor → Nor) : Answer :=
  if norFree s then (stOk, [], { s with nor := (f s.nor).commit }) else (stBusy, [], s)

def execOwnerAdd (m : Datagram) (s : State) : Res :=
  onSessReq m (· == 2) .admin s (fun _ _ fs s =>
    let key := slice fs 1 1952
    let o : OwnerKey := ⟨field fs 0 1 == 1, key, fit 32 (Config.shake key 256)⟩
    if (ownerOf s o.hash).isSome then (stExists, [], s)
    else if 8 ≤ s.nor.owners.length then (stFull, [], s)
    else onNor s (fun n => { n with owners := n.owners ++ [o] })) keep

def execOwnerRemove (m : Datagram) (s : State) : Res :=
  onSessReq m (· == 3) .admin s (fun _ _ fs s =>
    let h := slice fs 0 32
    match ownerOf s h with
    | none => (stNotFound, [], s)
    | some o =>
      if o.admin && (s.nor.owners.filter OwnerKey.admin).length ≤ 1 then (stLastAdmin, [], s)
      else onNor s (fun n => { n with owners := n.owners.filter (fun x => x.hash != h) })) keep

/-- Policy bits in the order of R378, from bit 0 (log 36). -/
def execPolicySet (m : Datagram) (s : State) : Res :=
  onSessReq m (· == 4) .admin s (fun _ _ fs s =>
    let p := field fs 0 1
    onNor s (fun n => { n with signed := bit p 0, pwAllowed := bit p 1, macsecReq := bit p 2, bootAuth := bit p 3 })) keep

/-- R380, R386. -/
def execPasswordSet (m : Datagram) (s : State) : Res :=
  onSessReq m (· == 5) .admin s (fun _ x fs s =>
    let b := m.body
    let n := field fs 0 1
    match Config.gcmOpen (keyOf x.master "ENC") (slice b 12 4 ++ zeros 8) (slice b 0 20) (slice fs 4 (n + 16)) with
    | none => (stBadArgs, [], s)
    | some pw =>
      if pw.length < 8 ∨ 128 < pw.length then (stLimit, [], s)
      else
        let (salt, s1) := freeBytes s 32
        if norFree s then
          (stOk, [], { s1 with nor := { s1.nor with password := some (salt, fit 32 (Config.kmac salt pw 256 cPassword)), pwAllowed := true }.commit })
        else (stBusy, [], s)) keep

/-- R379. -/
def execOwnerRelease (m : Datagram) (s : State) : Res :=
  onSessReq m (· == 6) .admin s (fun _ _ _ s =>
    onNor s (fun n => { n with owners := [], password := none, signed := false, pwAllowed := false, macsecReq := false, bootAuth := false })) keep

/-- R378, R394: an IPv4-mapped address and a prefix; prefix 0 is none (log 36). -/
def execBootAddress (m : Datagram) (s : State) : Res :=
  onSessReq m (· == 7) .admin s (fun _ _ fs s =>
    let p := field fs 16 1
    onNor s (fun n => { n with bootAddr := if p = 0 then none else some (field fs 0 16 % 2 ^ 32, p) })) keep

/-- R374, R375, R386. -/
def execMacsecOn (m : Datagram) (s : State) : Res :=
  onSessReq m (· == 8) .any s (fun _ x fs s =>
    let p := field fs 0 1
    let y := s.port p
    if !portFitted s p || (y.role != 1 && y.role != 3) then (stPort, [], s)
    else
      let an := if y.macsec.isSome then (y.an + 1) % 4 else y.an
      let k := Config.kmac (keyOf x.master "SAK") (natLe 1 p ++ natLe 1 an) 352 cMacsec
      (stOk, [], s.setPort p { y with macsec := some ⟨fit 32 k, fit 12 (k.drop 32), 0, 0⟩, an := an })) keep

/-! ### The boot responder (R394, R395, R432, R433) -/

/-- BOOT_CONNECT: a queue pair for writes only, and a key for the staging area of 64 MiB at address 0. -/
def execBootConnect (m : Datagram) (s : State) : Res :=
  onSessReq m (· == 9) .boot s (fun id x fs s =>
    let p := m.port
    let s0 := match look s.sess id with
      | some y => let t := endBoot s id
                  { t with sess := put t.sess id y }
      | none => s
    match freeQp s0 p, freeKey s0 with
    | some e, some k =>
      let (qpn, psn, s1) := addQp s0 p e (fwQp .boot x.ip (field fs 0 4 % 2 ^ 24) (field fs 4 4 % 2 ^ 24) 4096 (localFor s p x.ip))
      let (key, s2) := addKey s1 k (fun gen => ⟨gen, .boot, 0, 64 * 1048576, false, true, false, true⟩)
      (stOk, natLe 4 qpn ++ natLe 4 psn ++ natLe 4 key, s2)
    | _, _ => (stLimit, [], s)) keep

/-- BOOT_GO: the checks; a good image ends the boot session and starts the firmware behind the RESPONSE. Where a unit of the boot
die that service needs does not work, the firmware does not come to service (R498). -/
def execBootGo (m : Datagram) (s : State) : Res :=
  let n := field ((m.body.take (m.body.length - 16)).drop 20) 0 4
  let image := Mem.bytes s.fw.staging 0 n
  onSessReq m (· == 10) .boot s (fun _ _ _ s =>
    if imageOk s image n then (stOk, [], s)
    else (stBadImage, [], { s with fw := { s.fw with badImages := hold 8 s.fw.badImages 1 } }))
    (fun st id s => if st ≠ stOk then s else
      if (s.die s.fw.bootDie).lame then endBoot s id else toService (endBoot s id) image n)

/-! ### RINGS_OPEN (R436) -/

def execRingsOpen (m : Datagram) (s : State) : Res :=
  onSessReq m (· == 11) .service s (fun id x fs s =>
    let f := field fs
    let p := f 0 1
    let (sub, cpl, evt) := if x.opened then (x.subLog, x.cplLog, x.evtLog) else (f 16 1, f 17 1, f 18 1)
    let (et, ct, dl) := if x.opened then (x.evtThr, x.cplThr, x.delay) else (f 20 4, f 24 4, f 28 4)
    if !portFitted s p || ((s.port p).role != 1 && (s.port p).role != 3) then (stPort, [], s)
    else if x.rings.any (fun r => r.1 == p) then (stState, [], s)
    else if sub < 6 ∨ 12 < sub ∨ cpl < sub ∨ 12 < cpl ∨ evt < 6 ∨ 14 < evt ∨ et = 0 ∨ 2 ^ evt < et ∨ ct = 0 ∨ 2 ^ cpl < ct ∨ 65535 < dl
        ∨ !([1024, 2048, 4096].contains (f 12 4)) then (stLimit, [], s)
    else
      let old := s.keys.find? (fun k => k.2.live && k.2.owner == .rings id)
      match freeQp s p, (if old.isSome then some 0 else freeKey s) with
      | some e, some k =>
        let (qpn, psn, s1) := addQp s p e (fwQp (.rings id) x.ip (f 4 4 % 2 ^ 24) (f 8 4 % 2 ^ 24) (f 12 4) (localFor s p x.ip))
        let (key, s2) := match old with
          | some o => (o.2.gen * 65536 + o.1, s1)
          | none => addKey s1 k (fun gen => ⟨gen, .rings id, 0, 0x10000000 + 2 ^ 30, true, true, false, true⟩)
        let y := match look s2.sess id with | some y => y | none => x
        let s3 := s2.setSess id { y with
          rings := y.rings ++ [(p, qpn)], opened := true, subLog := sub, cplLog := cpl, evtLog := evt, evtThr := et, cplThr := ct, delay := dl }
        (stOk, natLe 4 qpn ++ natLe 4 psn ++ natLe 4 key, s3)
      | _, _ => (stLimit, [], s)) keep

/-! ### Reset, dump and shutdown (R497, R512) -/

/-- The RESPONSE goes first, then the reset is called for, without a dump. -/
def execResetModule (m : Datagram) (s : State) : Res :=
  onSessReq m (· == 12) .admin s (fun _ _ _ s => (if s.fw.update.isSome then stBusy else stOk, [], s))
    (fun st _ s => if st = stOk then s.addDue (.l4 false) else s)

/-- Whether the boot die has a dump region (R493). -/
def dumpThere (s : State) : Bool := (s.die s.fw.bootDie).dramOn && !(s.die s.fw.bootDie).noFar && s.dump.size != 0

def execDumpOpen (m : Datagram) (s : State) : Res :=
  onSessReq m (· == 13) .admin s (fun _ _ _ s =>
    if !dumpThere s then (stNotFound, [], s) else
    match s.keys.find? (fun k => k.2.live && k.2.owner == .dump), freeKey s with
    | some k, _ => (stOk, natLe 8 (s.dump.size * 2 ^ 30) ++ natLe 4 (k.2.gen * 65536 + k.1), s)
    | none, some e =>
      let (key, s1) := addKey s e (fun gen => ⟨gen, .dump, 0, s.dump.size * 2 ^ 30, true, false, false, true⟩)
      (stOk, natLe 8 (s.dump.size * 2 ^ 30) ++ natLe 4 key, s1)
    | none, none => (stLimit, [], s)) keep

def execDumpRelease (m : Datagram) (s : State) : Res :=
  onSessReq m (· == 14) .admin s (fun _ _ _ s =>
    if s.dump.st = 0 then (stState, [], s) else
    (stOk, [], { s with
      dump := { s.dump with st := 0, level := 0, bytes := Mem.setBytes s.dump.bytes 0x4000006 [0] }
      keys := mapAll s.keys (fun _ (k : Key) => if k.owner = .dump then { k with live := false } else k) })) keep

def execDumpSize (m : Datagram) (s : State) : Res :=
  onSessReq m (· == 15) .admin s (fun _ _ fs s =>
    let n := field fs 0 4
    if n = 0 ∨ 16 < n then (stLimit, [], s) else onNor s (fun r => { r with dumpGib := n })) keep

/-- BUSY while any session holds a context; else an orderly shutdown begins. -/
def execShutdown (m : Datagram) (s : State) : Res :=
  onSessReq m (· == 16) .admin s (fun _ _ _ s =>
    (if s.ctxs.any (fun c => c.2.st != .free) then stBusy else stOk, [], s))
    (fun st _ s => if st = stOk then { s with fw := { s.fw with stopping := true } } else s)

end Sys2Proof.Machine
end

