-- ==== Sys2Proof/Machine/Collectives.lean ====
section
/-! DEFINITION. Collective contexts (R397 to R400), the rounds at their receivers (R404 to R409), the collective transport
(R410 to R416) and its outcomes, holds and restarts (R417 to R422). -/

set_option autoImplicit false

namespace Sys2Proof.Machine

/-! ### Requests (R397 to R400, R422) -/

/-- A member table (R398). -/
def readMembers (b : Bytes) (m : Nat) : List Member :=
  (List.range m).map (fun k => let e := slice b (32 * k) 32
    ⟨field e 0 16, field e 16 2, field e 18 2, false, []⟩)

/-- A bucket entry (R400); the first scale round takes epoch 0. -/
def readBucket (e : Bytes) (n : Nat) : Bucket where
  num := field e 0 2
  kind := field e 2 1
  group := field e 3 1
  sr := field e 4 1 % 4 == 2
  len := field e 8 4
  accum := field e 0x10 8
  result := field e 0x18 8
  done := field e 0x20 8
  n := n
  stepIn := 0
  round := 0
  epoch := 65535
  active := false
  complete := false
  redo := false
  heldUp := false
  scales := []
  agreed := []
  wrote := []
  gens := ⟨0, []⟩
  src := none
  startAt := 0

/-- Bytes of the results of a bucket that its entry fixes (R400): those of an ALLGATHER have the format of its TRED, one byte an
element at the least. -/
def Bucket.resultBytes (b : Bucket) (m : Nat) : Nat :=
  match b.kind with
  | 0 => 4 * b.len
  | 1 => 4 * (b.len / m)
  | _ => b.len

/-- Whether a run lies in windows mapped READ and WRITE, of objects that admit such accesses: of any policy but STREAM (R265,
R400). -/
def inRw (s : State) (ws : List Window) (va n : Nat) : Bool :=
  (granVas va n).all (fun v => ws.any (fun w => w.rd && w.wr && w.has v && (match s.obj w.obj with | some o => o.policy != 3 | none => false)))

/-- R397 to R400 (log 36 gives the places of the fields). -/
def execCollCreate (n : Nat) (s : State) : Res :=
  onReq s n 0x0501 (fun t s =>
    let f := field t.fields
    let c := f 0 2
    let p := f 2 1
    let h := f 4 2
    let m := f 12 4
    let own := f 16 2
    let inc := f 20 4
    let count := f 40 4
    let window := if f 56 4 = 0 then 1000 else f 56 4
    let ws := (s.ctx c).windows
    let x := s.port p
    if !s.ctxNamed c then complete s t.uid stNotFound []
    else if !portFitted s p || (x.role != 2 && x.role != 3) || !x.redOn then complete s t.uid stPort []
    else if 256 ≤ h ∨ m < 2 ∨ 4096 < m ∨ m ≤ own ∨ 65536 ≤ inc ∨ 1024 < count ∨ 60000 < window
        ∨ !(inNear s ws (f 24 8) (32 * m)) ∨ !(inNear s ws (f 32 8) (64 * count)) ∨ !(inNear s ws (f 48 8) 512) then complete s t.uid stLimit []
    else if (look (s.ctx c).colls h).isSome || x.colls.any (fun y => y.2.job == f 8 4 && y.2.st != .closed) then complete s t.uid stExists []
    else
      let (mb, _, s) := rdVa s (s.home c) c (f 24 8) (32 * m) false
      let (tab, _, s) := rdVa s (s.home c) c (f 32 8) (64 * count) false
      let (grp, _, s) := rdVa s (s.home c) c (f 48 8) 512 false
      let ms := readMembers mb m
      let gn := fun (g : Nat) => field grp (8 * g) 2
      let bs := (List.range count).map (fun i => let e := slice tab (64 * i) 64
        (field e 4 1 % 4, readBucket e (gn (field e 3 1))))
      let bad := fun (q : Nat × Bucket) => let b := q.2
        decide (2 < b.kind) || decide (63 < b.group) || (q.1 != 0 && q.1 != 2) || b.len == 0 || b.len % (32 * m) != 0 || decide (2 ^ 28 < b.len)
          || b.n == 0 || decide (1024 < b.n) || (b.kind == 2 && b.n != 1) || (b.kind != 2 && !inNear s ws b.accum (8 * b.len + b.len / 32))
          || !inRw s ws b.result (b.resultBytes m) || !inRw s ws b.done 8
      match leastFree x.colls 0 256 with
      | none => complete s t.uid stLimit []
      | some i =>
        if bs.any bad || (List.range 64).any (fun g => gn g == 0 || decide (1024 < gn g)) || dup (bs.map (fun q => q.2.num)) || (nth ⟨0, 0, 0, false, []⟩ ms own).inc != inc then complete s t.uid stLimit []
        else
          let coll : Coll := {
            ctx := c, handle := h, st := .open_, job := f 8 4, m := m, own := own, inc := inc, window := window, members := ms
            buckets := bs.map Prod.snd, sendSeq := 0, recvSeq := 0, unacked := [], ctlNum := [], ctls := [], rate := 32768, lastCut := none, rateSince := none }
          let s1 := s.setPort p { x with colls := put x.colls i coll }
          complete (s1.setCtx c { s1.ctx c with colls := put (s1.ctx c).colls h (p, i) }) t.uid stOk [])

/-- R422. -/
def execCollDestroy (n : Nat) (s : State) : Res :=
  onReq s n 0x0502 (fun t s =>
    let c := field t.fields 0 2
    let h := field t.fields 2 2
    match (if s.ctxNamed c then look (s.ctx c).colls h else none) with
    | none => complete s t.uid stNotFound []
    | some (p, i) =>
      let s1 := closeColl s p i
      complete (s1.setCtx c { s1.ctx c with colls := del (s1.ctx c).colls h }) t.uid stOk [])

def CollSt.code : CollSt → Nat
  | .open_ => 0 | .held => 1 | .failed => 2 | .closed => 3

/-- R397: the state, the incarnations held and the last round of each bucket (log 36). -/
def execCollQuery (n : Nat) (s : State) : Res :=
  onReq s n 0x0503 (fun t s =>
    let c := field t.fields 0 2
    match (if s.ctxNamed c then (look (s.ctx c).colls (field t.fields 2 2)).bind (fun v => s.coll v.1 v.2) else none) with
    | none => complete s t.uid stNotFound []
    | some x => result s t (field t.fields 8 8) (natLe 1 x.st.code ++ zeros 7 ++ x.members.flatMap (fun m => natLe 2 m.inc)
        ++ x.buckets.flatMap (fun b => natLe 2 b.num ++ zeros 2 ++ natLe 4 (b.round - 1))))

/-! ### Outcomes (R417, R420, R421) -/

/-- COLL_EVENT: 1 HOP_FAILED, 2 PEER_CLOSED, 3 ROUND_TIMEOUT, as R417 lists them. -/
def collEvent (s : State) (c : Coll) (b : Bucket) (outcome member : Nat) : State :=
  postEvent s (some c.ctx) (c.ctx / 1024) 3
    (natLe 2 c.ctx ++ natLe 1 c.handle ++ natLe 1 outcome ++ natLe 2 b.num ++ natLe 2 member ++ natLe 4 (b.round - 1))

/-- Rounds in flight, or held to be run again, end without OK. -/
def endRounds (s : State) (p i outcome member : Nat) (hit : Bucket → Bool) : State :=
  let s := signalRounds s p i
  match s.coll p i with
  | none => s
  | some c =>
    let live := fun (b : Bucket) => (b.active || b.heldUp) && hit b
    let out := c.buckets.filter live
    let s1 := out.foldl (fun (s : State) b => collEvent s c b outcome member) s
    let s2 := s1.onColl p i (fun c => { c with buckets := c.buckets.map (fun b => if live b then { b with active := false, heldUp := false } else b) })
    s2.setPort p { s2.port p with cAbandoned := hold 16 (s2.port p).cAbandoned out.length }

def collFault (s : State) (p : Nat) (c : Coll) (cls whereAt a b : Nat) : State :=
  report s { Fault64.blank with
    ctx := c.ctx, cls := cls, die := portDie p, unit := 12, index := p, whereAt := whereAt, a := a, b := b }

/-- A hop fails (R412, R417): the rounds end HOP_FAILED, a LINK fault names the context, the context is FAILED. -/
def failHop (s : State) (p i : Nat) : State :=
  match s.coll p i with
  | none => s
  | some c =>
    let s1 := endRounds s p i 1 c.next (fun _ => true)
    let s2 := collFault s1 p c 7 c.handle 4 c.next
    let s3 := s2.onColl p i (fun c => { c with st := if c.st = .closed then .closed else .failed, unacked := [] })
    s3.setPort p { s3.port p with xHop := hold 16 (s3.port p).xHop 1 }

/-- R420: one PEER_RESET for each reset of a member; the context is HELD and its rounds are abandoned. Packets sent to a neighbour
that is not reset stay to be answered (R412). -/
def peerReset (s0 : State) (p i m : Nat) : State :=
  let s := signalRounds s0 p i
  match s.coll p i with
  | none => s
  | some c =>
    if c.st = .closed then s else
    let s1 := if (c.member m).reset then s else collFault s p c 8 m c.handle (c.member m).inc
    s1.onColl p i (fun c => { c with
      st := if c.st = .open_ then .held else c.st
      members := modNth c.members m (fun x => { x with reset := true })
      buckets := c.buckets.map (fun b => { b with heldUp := b.heldUp || b.active, active := false })
      unacked := if m = c.next then [] else c.unacked })

/-- R421: with no member left to rejoin the context is OPEN and its held rounds run again. -/
def reopen (s : State) (p i : Nat) : State :=
  match s.coll p i with
  | none => s
  | some c =>
    if c.st ≠ .held ∨ c.members.any Member.reset then s else
    let s1 := s.onColl p i (fun c => { c with st := .open_ })
    (List.range c.buckets.length).foldl (fun (s : State) b =>
      if (nth false (c.buckets.map Bucket.heldUp) b) then
        let s1 := startRound (s.onBucket p i b (fun x => { x with heldUp := false })) p i b true
        s1.setPort p { s1.port p with cRestarted := hold 16 (s1.port p).cRestarted 1 }
      else s) s1

/-- A restored context's collective context takes its next incarnation and sends REJOIN (R421); its own rounds in flight
are held rounds. -/
def rejoinColl (s0 : State) (p i : Nat) : State :=
  let s := signalRounds s0 p i
  match s.coll p i with
  | none => s
  | some c =>
    if c.st = .closed then s else
    let inc := (c.inc + 1) % 65536
    let s1 := s.onColl p i (fun c => { c with
      inc := inc, members := modNth c.members c.own (fun x => { x with inc := inc }), ctlNum := [], ctls := [], sendSeq := 0, recvSeq := 0
      unacked := [], st := if c.st = .open_ then .held else c.st
      buckets := c.buckets.map (fun b => { b with heldUp := b.heldUp || b.active, active := false }) })
    reopen (ctlSend s1 p i 0x11) p i

/-! ### Receiving (R411, R412, R414) -/

/-- The collective context of a packet's JOB (R414); a closing one only for control packets' answers. -/
def collOfJob (s : State) (p job : Nat) (closedToo : Bool) : Option Nat :=
  (((s.port p).colls.filter (fun y => y.2.job == job && (closedToo || y.2.st != .closed))).map Prod.fst).head?

def badHeader (s : State) (p : Nat) : State := s.setPort p { s.port p with xHeader := hold 16 (s.port p).xHeader 1 }
def staleInc (s : State) (p : Nat) : State := s.setPort p { s.port p with xInc := hold 16 (s.port p).xInc 1 }

/-- A packet that reaches the UDP port of an up port's collective transport (R410): `f` gets the collective context. -/
def onJob (s : State) (p : Nat) (k : CollPkt) (closedToo : Bool) (f : Nat → Coll → State → State) : State :=
  if !(s.port p).redOn || k.dport != (s.port p).udp then s else
  arrive s p k.arr false fun s =>
  let s1 := learn (s.packets p 1) p k.src.toNat k.arr
  if k.version ≠ 1 then badHeader s1 p else
  match collOfJob s1 p k.job closedToo with
  | none => badHeader s1 p
  | some i => match s1.coll p i with
    | none => s1
    | some c => f i c s1

/-- Whether the sender's and the receiver's incarnations hold (R414). -/
def incsOk (c : Coll) (k : CollPkt) : Bool := k.inc == (c.member k.member).inc && k.destInc == c.inc

/-- Whether the context's partition is under reset (R419; log 34). -/
def collResetting (s : State) (c : Coll) : Bool :=
  let p := (s.ctx c.ctx).part
  s.due.any (fun r => r == .l2 (p / 8) (p % 8))

/-- Answer a SCALE or DATA packet; ECE stands on the ACK that covers one marked CE (R416). -/
def answer (s : State) (p i : Nat) (c : Coll) (k : CollPkt) (type seq : Nat) (ece : Bool) : State :=
  collSend s p i c.prev { c.packet c.prev type [] with
    ece := ece && type == 3, seq := seq, bucket := k.bucket, round := k.round, hop := if type = 5 then k.hop else 0, epoch := if type = 5 then k.epoch else 0
    chunk := if type = 5 then k.chunk else 0 }

/-- Where a packet stands against its bucket (R405, R414, R421): to be taken; of a round not started; of a round that this
member has completed and takes part in again; of another epoch. -/
inductive Phase
  | take | early | again | stale
  deriving DecidableEq, Repr

def phaseOf (c : Coll) (b : Bucket) (k : CollPkt) : Phase :=
  let cur := b.round != 0 && k.round == b.round - 1
  let newer := b.kind == 2 || k.epoch == (b.epoch + 1) % 65536
  if b.active && cur && k.epoch == b.epoch then .take
  else if b.round ≤ k.round then .early
  else if cur && newer && !b.active then (if b.complete && c.st == .open_ then .again else .early)
  else .stale

/-- Bytes of exponents reduced with MAX, or taken as the outcome, at a receiver (R404). -/
def takeScale (s : State) (p i bi : Nat) (k : CollPkt) : State :=
  match s.coll p i with
  | none => s
  | some c => match c.bucket bi with
    | none => s
    | some b =>
      let seg := hopSegment c.m c.prev k.hop
      let at_ := seg * (b.per c.m / 32) + k.chunk * 8192
      let got := k.payload.map BitVec.toNat
      let merged := got.zipIdx.map (fun v => Nat.max v.1 (nth 0 b.scales (at_ + v.2)))
      let settle := fun (s : State) (l : List Nat) => s.onBucket p i bi (fun b => { b with
        agreed := l.zipIdx.foldl (fun (a : List (Option Nat)) v => modNth a (at_ + v.2) (fun _ => some (agree c.m v.1))) b.agreed })
      let bytes := fun (l : List Nat) => l.map (BitVec.ofNat 8)
      let s1 :=
        if k.hop + 2 < c.m then sendScale s p i bi (k.hop + 1) k.chunk (bytes merged) k.last
        else if k.hop + 2 = c.m then sendScale (settle s merged) p i bi (k.hop + 1) k.chunk (bytes merged) k.last
        else if k.hop + 3 < 2 * c.m then sendScale (settle s got) p i bi (k.hop + 1) k.chunk k.payload k.last
        else settle s got
      match (s1.coll p i).bind (fun c => c.bucket bi) with
      | some y => if !b.agreed.all Option.isSome && y.agreed.all Option.isSome then startHops s1 p i bi else s1
      | none => s1

def f32Bytes (l : List F32) : Bytes := l.flatMap (fun v => natLe 4 v.toNat)

/-- A DATA chunk at its receiver (R406 to R408). -/
def takeData (s : State) (p i bi : Nat) (k : CollPkt) : State :=
  match s.coll p i with
  | none => s
  | some c => match c.bucket bi with
    | none => s
    | some b =>
      let seg := hopSegment c.m c.prev k.hop
      let result := fun (s : State) (va : Nat) (bs : Bytes) (t : Bool) => putResult s p i bi seg k.chunk va bs t
      let forward := fun (s : State) (bs : Bytes) (t : Bool) =>
        if k.hop + 3 < 2 * c.m then sendData s p i bi (k.hop + 1) k.chunk bs t k.last else s
      if b.kind = 2 then
        forward (result s (b.result + seg * (b.per c.m * b.eb) + k.chunk * 8192) k.payload k.poison) k.payload k.poison
      else
      let first := seg * b.per c.m + k.chunk * 8192
      if k.hop + 2 ≤ c.m then
        match b.cellsRefused s c.ctx c.m seg k.chunk with
        | some s1 => s1
        | none =>
        let (cells, s) := b.cells s c.ctx c.m seg k.chunk
        let (bytes, sums, vals, held, t, g) := hopChunk cells b first (some k.payload)
        let poison := k.poison || t
        if k.hop + 2 < c.m then
          sendData ((wireSat s p held).onBucket p i bi (fun z => { z with gens := g })) p i bi (k.hop + 1) k.chunk bytes poison k.last
        else if b.kind = 1 then
          let got := (k.payload.filter (fun n => n == 128)).length
          result (wireSat s p got) (b.result + k.chunk * 8192 * 4) (f32Bytes sums) poison
        else
          let s1 := (wireSat s p held).onBucket p i bi (fun z => { z with gens := g })
          forward (result s1 (b.result + first * 4) (f32Bytes vals) poison) bytes poison
      else
        let vals := k.payload.zipIdx.map (fun v => toF32 (wireVal (b.expOf (first + v.2)) v.1.toNat))
        let s1 := wireSat s p (k.payload.filter (fun n => n == 128)).length
        forward (result s1 (b.result + first * 4) (f32Bytes vals) k.poison)
          (k.payload.map (fun n => if n = 128 then 129 else n)) k.poison

/-- A SCALE or DATA packet (R405, R412, R414, R416, R419). -/
def recvRing (s : State) (p : Nat) (k : CollPkt) (f : State → Nat → Nat → CollPkt → State) : State :=
  onJob s p k false (fun i c s =>
    if k.member ≠ c.prev then badHeader s p
    else if !incsOk c k then staleInc s p
    else if collResetting s c then answer s p i c k 6 0 false
    else
      let ahead := (k.seq + 2 ^ 32 - c.recvSeq) % 2 ^ 32
      if 2 ^ 31 ≤ ahead then answer s p i c k 3 ((c.recvSeq + 2 ^ 32 - 1) % 2 ^ 32) k.ce
      else if ahead ≠ 0 then answer s p i c k 4 c.recvSeq k.ce
      else match (List.range c.buckets.length).find? (fun j => (nth 0 (c.buckets.map Bucket.num) j) == k.bucket) with
        | none => badHeader s p
        | some bi =>
          match c.bucket bi with
          | none => s
          | some b =>
            let ok := fun (s : State) =>
              let s1 := answer (s.onColl p i (fun c => { c with recvSeq := (c.recvSeq + 1) % 2 ^ 32 })) p i c k 3 k.seq k.ce
              if k.poison then s1.setPort p { s1.port p with wPoison := hold 16 (s1.port p).wPoison 1 } else s1
            match phaseOf c b k with
            | .early =>
              let s1 := s.setPort p { s.port p with wNotReady := hold 16 (s.port p).wNotReady 1 }
              answer s1 p i c k 5 k.seq k.ce
            | .stale =>
              let s1 := ok s
              if k.epoch ≠ b.epoch then s1.setPort p { s1.port p with xEpoch := hold 16 (s1.port p).xEpoch 1 } else s1
            | .again =>
              let s1 := startRound (ok s) p i bi true
              f (s1.setPort p { s1.port p with cRestarted := hold 16 (s1.port p).cRestarted 1 }) i bi k
            | .take => f (ok s) i bi k)

/-- R404, R405. -/
def execCollScaleReceived (p : Nat) (k : CollPkt) (s : State) : Res :=
  onPort p s (fun s => recvRing s p k (fun s i bi k => takeScale s p i bi k))

/-- R406 to R408. -/
def execCollDataReceived (p : Nat) (k : CollPkt) (s : State) : Res :=
  onPort p s (fun s => recvRing s p k (fun s i bi k => takeData s p i bi k))

/-! ### Answers at the sender (R412, R414 to R416) -/

/-- A closed context whose control packets are all answered is gone. -/
def settleClosed (s : State) (p i : Nat) : State :=
  match s.coll p i with
  | some c => if c.st = .closed ∧ c.ctls.isEmpty then s.setPort p { s.port p with colls := del (s.port p).colls i } else s
  | none => s

/-- Resend from the oldest unacknowledged packet (R412). -/
def linkResend (s : State) (p i : Nat) : State :=
  match s.coll p i with
  | none => s
  | some c =>
    let go := (s.port p).ready 3 (c.member c.next).ip
    let s1 := if go then c.unacked.foldl (fun (s : State) x => collSend s p i c.next x.pkt) s
      else s.setPort p ((s.port p).ask 3 (c.member c.next).ip)
    s1.onColl p i (fun c => { c with unacked := c.unacked.map (fun x => { x with onWire := go }) })

/-- Cut the rate of a link (R362, R416). -/
def linkCut (s : State) (p i us : Nat) : State :=
  let x := s.port p
  s.onColl p i (fun c =>
    let may := match c.lastCut with | some t => decide (t + x.holdUs ≤ us) | none => true
    { c with
      rate := if may then cutRate c.rate x.cut else c.rate, lastCut := if may then some us else c.lastCut
      rateSince := some (s.die (portDie p)).time })

/-- Packets of a link up to a SEQ are acknowledged. -/
def linkAck (s : State) (p i seq : Nat) : State :=
  s.onColl p i (fun c => { c with unacked := c.unacked.filter (fun x => decide (2 ^ 31 ≤ (seq + 2 ^ 32 - x.pkt.seq) % 2 ^ 32)) })

/-- An ACK, NAK_SEQ, NOT_READY or RESETTING of the link: from the member that the ring sends to, with its incarnations. -/
def recvAnswer (s : State) (p : Nat) (k : CollPkt) (f : State → Nat → Coll → State) : State :=
  onJob s p k false (fun i c s =>
    if k.member ≠ c.next then badHeader s p
    else if !incsOk c k then staleInc s p
    else f s i c)

/-- R412, R415, R416: ACK, NAK_SEQ, and control ACKs. `us` is the port's clock in µs. -/
def execCollAckReceived (p : Nat) (k : CollPkt) (us : Nat) (s : State) : Res :=
  onPort p s (fun s =>
    if k.type = 3 ∧ k.hop = 0xFFFF then
      onJob s p k true (fun i c s =>
        if get 0 c.ctlNum k.member = 0 then badHeader s p
        else if !incsOk c k then staleInc s p
        else
          let s := if k.ece && k.member == c.next then linkCut s p i us else s
          settleClosed (s.onColl p i (fun c => { c with ctls := c.ctls.filter (fun x => x.member != k.member || x.num != k.seq) })) p i)
    else recvAnswer s p k (fun s i _ =>
      let s1 := if k.ece && k.type != 4 then linkCut s p i us else s
      if k.type = 4 then linkResend (linkAck s1 p i ((k.seq + 2 ^ 32 - 1) % 2 ^ 32)) p i else linkAck s1 p i k.seq))

/-- R414: the answer stops the count of the packets it covers; COLL_RESEND sends them again. -/
def execCollNotReadyReceived (p : Nat) (k : CollPkt) (s : State) : Res :=
  onPort p s (fun s => recvAnswer s p k (fun s i _ =>
    s.onColl p i (fun c => { c with unacked := c.unacked.map (fun x =>
      if x.pkt.bucket = k.bucket ∧ x.pkt.round = k.round then { x with answered := true } else x) })))

/-- R420. -/
def execCollResettingReceived (p : Nat) (k : CollPkt) (s : State) : Res :=
  onPort p s (fun s => recvAnswer s p k (fun s i _ => peerReset s p i k.member))

/-! ### Control packets (R414, R415, R419 to R422) -/

/-- A control packet: from the address of a member, admitted by its incarnation, and for a REJOIN by nothing else; answered each
time, with ECE where it was marked CE (R416), and acted on once. -/
def recvControl (s : State) (p : Nat) (k : CollPkt) (rejoin : Bool) (f : State → Nat → Coll → State) : State :=
  onJob s p k false (fun i c s =>
    let x := c.member k.member
    if c.m ≤ k.member ∨ k.member = c.own ∨ x.ip ≠ k.src.toNat then badHeader s p
    else
      let again := k.inc == x.inc && x.ctlSeen.contains k.seq
      let fresh := if rejoin then k.inc == (x.inc + 1) % 65536 else k.inc == x.inc
      if (!rejoin && k.destInc != c.inc) || !(fresh || again) then staleInc s p
      else
        let s1 := if again then s else f (s.onColl p i (fun c => { c with
          members := modNth c.members k.member (fun x => { x with ctlSeen := if rejoin then [k.seq] else x.ctlSeen ++ [k.seq] }) })) i c
        match s1.coll p i with
        | some c1 => collSend s1 p i k.member { c1.packet k.member 3 [] with hop := 0xFFFF, seq := k.seq, ece := k.ce }
        | none => s1)

/-- R420. -/
def execResetNotice (p : Nat) (k : CollPkt) (s : State) : Res :=
  onPort p s (fun s => recvControl s p k false (fun s i _ => peerReset s p i k.member))

/-- R421: the new incarnation enters the table; the link's numbers start anew; held rounds run again. -/
def execRejoin (p : Nat) (k : CollPkt) (s : State) : Res :=
  onPort p s (fun s => recvControl s p k true (fun s i c =>
    let s1 := s.onColl p i (fun x => { x with
      members := modNth x.members k.member (fun y => { y with inc := k.inc, reset := false })
      sendSeq := if k.member = c.next then 0 else x.sendSeq, unacked := if k.member = c.next then [] else x.unacked
      recvSeq := if k.member = c.prev then 0 else x.recvSeq })
    reopen s1 p i))

/-- R417, R422: the rounds end with PEER_CLOSED, held ones too, so that no round waits for a member and the context is OPEN.
Packets to a neighbour that closed are answered no more. -/
def execClosed (p : Nat) (k : CollPkt) (s : State) : Res :=
  onPort p s (fun s => recvControl s p k false (fun s i c =>
    (endRounds s p i 2 k.member (fun _ => true)).onColl p i (fun x => { x with
      st := if x.st = .held then .open_ else x.st
      members := modNth x.members k.member (fun y => { y with reset := false })
      unacked := if k.member = c.next then [] else x.unacked })))

/-! ### Timers (R412, R415 to R417) -/

/-- R412, R414. -/
def execCollResend (p coll : Nat) (s : State) : Res :=
  onPort p s (fun s => linkResend s p coll)

/-- R415: until ROUND_WINDOW has passed. -/
def execCollControlResend (p coll : Nat) (s : State) : Res :=
  onPort p s (fun s =>
    let now := (s.die (portDie p)).time
    let s1 := s.onColl p coll (fun c => { c with ctls := c.ctls.filter (fun x => decide (now < x.since + c.window * 25000)) })
    match s1.coll p coll with
    | none => s1
    | some c => settleClosed (c.ctls.foldl (fun (s : State) x =>
        collSend s p coll x.member { c.packet x.member x.type [] with seq := x.num }) s1) p coll)

/-- R412: a packet has had no answer for 1,563 periods since it was first sent, or the own link failed under a round (R417,
R423). -/
def execHopFailed (p coll : Nat) (s : State) : Res :=
  onPort p s (fun s =>
    match s.coll p coll with
    | some c => if c.unacked.any (fun x => !x.answered && x.onWire) || (!(s.port p).up && (!c.unacked.isEmpty || c.buckets.any Bucket.active)) then failHop s p coll else s
    | none => s)

/-- R417. -/
def execRoundTimeout (p coll bucket : Nat) (s : State) : Res :=
  onPort p s (fun s =>
    match s.coll p coll with
    | none => s
    | some c => match c.bucket bucket with
      | none => s
      | some b =>
        if c.st = .closed ∨ !(b.active || b.heldUp) ∨ (s.die (portDie p)).time < b.startAt + c.window * 25000 ∨ (b.active && b.complete) then s else
        (endRounds s p coll 3 0xFFFF (fun x => x.num == b.num)).onColl p coll (fun c => { c with st := .failed }))

/-- R409. -/
def execRoundComplete (p coll bucket : Nat) (s : State) : Res := onPort p s (fun s => roundDone s p coll bucket)

/-- R362, R416. -/
def execCollLinkRateIncrease (p coll : Nat) (s : State) : Res :=
  onPort p s (fun s => s.onColl p coll (fun c =>
    if mayRaise s p c.rateSince then { c with rate := Nat.min 32768 (c.rate + 256), rateSince := some (s.die (portDie p)).time } else c))

end Sys2Proof.Machine
end

