-- ==== Sys2Proof/Machine/Registers.lean ====
section
/-! DEFINITION. The registers of the control window (R16 to R20): what a read of each returns, and the write of those that
no row of its own writes. -/

set_option autoImplicit false

namespace Sys2Proof.Machine

/-- Put fields together: each value with the place of its lowest bit. -/
def pack (l : List (Nat × Nat)) : Nat := (l.map (fun p => p.2 * 2 ^ p.1)).sum

/-! ### Per core -/

/-- The cluster whose units serve a core: that of its logical core, else its home. -/
def State.clusterOf (s : State) (k : Nat) : Option Nat :=
  if (s.core k).ctx.isSome then some (s.core k).cluster else homeCluster (k % 68)

/-- CORE.PACE.STATUS (R76). DESIGN CHOICE: the spare core of a pair that serves no cluster shows TAP 0 (log 68). -/
def paceStatus (s : State) (k : Nat) : Nat :=
  let r := (s.core k).hw.regs
  pack [(31, b2n r.paceValid), (24, match s.clusterOf k with | some c => (s.cluster (k / 68) c).tap | none => 0), (0, r.paceRate)]

/-- CORE.OPE.STATUS (R112). DESIGN CHOICE: RUN stays 1 while BEAT_SKEW halts the OPE, since its run is kept (log 68). -/
def opeStatus (c : Core) : Nat :=
  pack [(31, b2n c.cx.halted), (8, (c.cx.haltArr.map (2 ^ ·)).sum), (2, b2n (!c.cx.flights.isEmpty)), (1, b2n c.cx.run.isSome),
    (0, b2n (c.cx.arrs.any (fun a => a.b0.st == .loading || a.b1.st == .loading)))]

def BankSt.code : BankSt → Nat
  | .empty => 0 | .loading => 1 | .loaded => 2

/-- CORE.OPE.BANKn (R112). DESIGN CHOICE: in duo grouping BANK1 and BANK3 show the unused banks of arrays 1 and 3, EMPTY
(log 68). -/
def opeBank (a : Arr) : Nat :=
  pack [(31, a.active), (26, a.b1.st.code), (24, a.b0.st.code), (16, a.b1.tag), (8, a.b0.tag)]

/-- CORE.OPE.SKEW (R112). -/
def opeSkew (x : SkewCap) : Nat :=
  pack [(63, b2n x.valid), (62, b2n x.multi), (61, b2n x.pend), (56, x.array), (48, x.expected), (40, x.seen), (0, x.beat % 2 ^ 32)]

/-- CORE.OPE.REMAPn (R81, R112): the row and the column that the coppice map repairs; physical 128 is skipped else. -/
def opeRemap (s : State) (k n : Nat) : Nat :=
  let e := fun (kind : Nat) => s.maps.find? (fun e => e.kind == kind && e.die == k / 68 && e.st == 1 && e.unit == k % 68 && e.sub == n)
  pack [(17, b2n (e 3).isSome), (16, b2n (e 2).isSome), (8, ((e 3).map MapEntry.whereAt).getD 128), (0, ((e 2).map MapEntry.whereAt).getD 128)]

/-- CORE.ACC.FLAGS (R166). -/
def accFlags (s : State) (k : Nat) : Nat :=
  pack ((List.range 4).map (fun a => (3 * a, if s.duoOf k && a % 2 == 1 then 0 else ((s.core k).arr a).flags.code)))

/-- CORE.CC.STATUS (R204). -/
def ccStatus (c : Core) : Nat :=
  let x := c.cx.cc
  let st := if x.stopped then 5 else if x.quiesced then 4 else if x.waitWords then 3 else if x.stalled then 2 else if c.ccIdle then 0 else 1
  let full := fun (e : Eng) => b2n (decide (64 ≤ e.q.length))
  pack [(28, st), (24, x.frames.length), (23, full c.cx.te), (22, full c.cx.ve), (21, full c.cx.ope),
    (14, c.cx.te.q.length), (7, c.cx.ve.q.length), (0, c.cx.ope.q.length)]

/-- CORE.SYNC.WAIT_STATE (R232). -/
def waitState (c : Core) : Nat :=
  let w := fun (e : Eng) => match e.wait with
    | none => 0
    | some x => match x.kind with | .counter => 1 | .mem => 2 | .barrier => 3
  pack [(31, b2n c.cx.te.held), (30, b2n c.cx.ve.held), (29, b2n c.cx.ope.held), (4, w c.cx.te), (2, w c.cx.ve), (0, w c.cx.ope)]

/-- CORE.SYNC.WAIT_POLLS (R232). -/
def waitPolls (c : Core) : Nat :=
  let n := fun (e : Eng) (w : Nat) => Nat.min (2 ^ w - 1) ((e.wait.map Wait.polls).getD 0)
  pack [(42, n c.cx.te 22), (21, n c.cx.ve 21), (0, n c.cx.ope 21)]

/-- STREAM.RINGn (R260). -/
def streamRing (x : Ring) : Nat :=
  let bound := x.geom.valid && x.bound.isSome
  pack [(63, b2n bound), (56, x.geom.replay), (48, x.nextTag), (40, if bound then x.geom.slots else 0), (32, x.ullage),
    (28, x.head), (24, x.tail), (20, x.read), (0, (x.slots.zipIdx.map (fun y => if y.1.st = .valid then 2 ^ y.2 else 0)).sum)]

/-- CORE.TE.OUTSTANDING (R260). -/
def teOutstanding (c : Core) : Nat :=
  pack [(16, c.cx.begun.length), (8, (c.hw.ops.filter TeOp.light).length + c.teReads), (0, c.teOps)]

/-- What a read of a core's register returns. -/
def readCore (s : State) (k : Nat) (r : Reg) : Nat :=
  let c := s.core k
  let g := c.hw.regs
  match r with
  | .paceStatus _ => paceStatus s k
  | .workBeats _ => g.workBeats
  | .coverBeats _ => g.coverBeats
  | .coverControl _ => g.maxBeats
  | .opeConfig _ => b2n (s.duoOf k)
  | .opeStatus _ => opeStatus c
  | .opeBank _ n => opeBank (c.arr n)
  | .opeSkew _ => opeSkew g.skew
  | .opeRemap _ n => opeRemap s k n
  | .opeEscapes _ => pack [(48, g.escOver), (0, g.escTaken)]
  | .tstoreErrors _ => pack [(48, g.tsUe), (32, g.tsPoison), (0, g.tsCe)]
  | .fmtErrors _ => pack [(48, g.rsvdTag), (32, g.tailOver), (16, g.promoOver), (0, g.veEscOver)]
  | .accFlags _ => accFlags s k
  | .accLast _ => pack ((List.range 4).map (fun a => (3 * a, nth 0 g.accLast a)))
  | .accReadout _ => pack [(48, g.roSat), (32, g.roNonfin), (0, g.roTainted)]
  | .ccStatus _ => ccStatus c
  | .ccConsumed _ => c.cx.cc.consumer
  | .ccRetired _ => pack [(42, nth 0 c.hw.retired 3 % 2 ^ 22), (21, nth 0 c.hw.retired 2 % 2 ^ 21), (0, nth 0 c.hw.retired 1 % 2 ^ 21)]
  | .ccFault _ => pack [(63, b2n g.stop.valid), (59, g.stop.cause), (57, g.stop.engine), (0, g.stop.index % 2 ^ 48)]
  | .ccFaultWord _ => g.stop.word.toNat
  | .ccMark _ => pack [(32, c.cx.cc.step), (0, c.cx.cc.keep)]
  | .ccLc _ n => nth 0 c.cx.cc.lcs n
  | .veControl _ => b2n c.cx.check
  | .veCheck _ => pack [(63, b2n g.check.valid), (41, g.check.hits), (17, g.check.cmd % 2 ^ 24), (0, g.check.line)]
  | .teIndex _ => pack [(32, g.ixOob), (0, g.ixPoison)]
  | .veTrain _ => pack [(48, g.trainState), (32, g.trainNonfin), (0, g.trainSkipped)]
  | .syncWaitState _ => waitState c
  | .syncWaitPolls _ => waitPolls c
  | .syncBackoff _ => pack [(16, g.memMax), (8, g.ctrMax), (0, g.full)]
  | .syncTimeout _ => pack [(63, b2n g.timeout.valid), (62, b2n g.timeout.late), (60, g.timeout.engine), (58, g.timeout.kind), (0, g.timeout.index % 2 ^ 48)]
  | .syncUnfenced _ => pack [(63, b2n g.unfenced.valid), (61, g.unfenced.engine), (58, b2n c.cx.te.uncovered), (57, b2n c.cx.ve.uncovered),
      (56, b2n c.cx.ope.uncovered), (0, g.unfenced.index % 2 ^ 48)]
  | .syncXlate _ => pack [(40, g.sunk), (32, g.sat), (0, g.misses)]
  | .streamRing _ n => streamRing (c.ring n)
  | .lateSlots _ => pack [(48, g.lateUncov), (0, g.late)]
  | .streamFlow _ => pack [(48, g.flowPoison), (24, g.flowMcast), (0, g.flowLight)]
  | .teOutstanding _ => teOutstanding c
  | _ => 0

/-! ### Per die, cluster, channel, engine, partition -/

def Errs.pack (e : Errs) : Nat := Machine.pack [(48, e.ue), (32, e.poison), (0, e.ce)]

/-- RACK.STATUSe (R292). -/
def rackStatus (s : State) (d e : Nat) : Nat :=
  pack [(24, Nat.min 0xFF ((rackObjs s d e).map (fun p => p.2.queue.length)).sum), (16, rackBusy s d e), (0, rackOps s d e)]

def PSt.code : PSt → Nat
  | .inService => 0 | .inClearing => 1 | .fenced => 2

/-- PART.CONFIG (R323). -/
def partConfig (p : Nat) (x : Part) : Nat :=
  let size := match x.clusters with | 1 => 0 | 2 => 1 | 4 => 2 | _ => 3
  pack [(30, x.st.code), (29, b2n x.duo), (24, size), (20, p % 8), (16, b2n x.resident.isSome), (0, x.resident.getD 0)]

/-- PART.BARRIER.STATEb (R232). -/
def barrierState (b : Barrier) : Nat :=
  let at_ := fun (n : Nat) => (b.members.filter (fun c => decide (b.r + n ≤ get 0 b.g c))).length
  pack [(32, b.r % 2 ^ 32), (16, b.stalled.length), (8, (b.members.filter (fun c => get 0 b.g c == b.r + 2)).length), (0, at_ 1)]

/-- COPPICE.SPARES (R526). -/
def copSpares (s : State) (d : Nat) : Nat :=
  let pairs := fun (f : Nat → Bool) => ((List.range 4).map (fun q => if f q then 2 ^ q else 0)).sum
  pack [(21, b2n ((cellarCore s d 4).st != 0 && decide ((cellarCore s d 4).role < 4))), (16, (s.maps.filter (fun e => e.kind == 5 && e.die == d && e.st == 1)).length),
    (4, pairs (fun q => s.maps.any (fun e => e.kind == 1 && e.die == d && e.st == 0 && pairOf e.unit == q))), (0, pairs (s.spareUsed d))]

/-- COPPICE.RATES (R526): events of the last 24 h. -/
def copRates (s : State) (d : Nat) : Nat :=
  let x := s.die d
  let n := fun (l : List Nat) => (l.filter (fun t => decide (x.time < t + day))).length
  pack [(48, Nat.min 0xFFFF (n x.tapAt)), (24, Nat.min 0xFFFFFF (n x.nearAt)), (0, Nat.min 0xFFFFFF (n x.tsAt))]

/-! ### Per port and per module -/

/-- PORT.STATUS (R396). -/
def portStatus (x : Port) : Nat :=
  pack [(31, b2n x.up), (29, x.rate), (27, x.role), (26, b2n x.macsec.isSome), (24, x.an), (16, x.lanes), (0, x.attempts)]

/-- SUPPLY.GUARD.STATUS (R78). -/
def guardStatus (w : Power) : Nat :=
  pack [(20, Nat.min 0xFFF (w.mv / 50)), (8, w.minSeen), (3, b2n w.overV), (2, b2n (!w.logQ.isEmpty)), (1, b2n w.throttle), (0, b2n w.hold)]

/-- SESSION.STATUS (R396). -/
def sessionStatus (s : State) : Nat :=
  pack [(28, openCount s), (27, b2n (owned s)), (26, b2n s.lockUntil.isSome), (16, Nat.min 0xFF s.failures), (0, s.tagDrops)]

/-- DUMP.STATUS (R499). -/
def dumpStatus (s : State) : Nat :=
  pack [(30, s.dump.st), (27, if s.dump.st = 0 then 0 else s.dump.level), (26, b2n (dumpThere s)), (16, s.dump.size), (8, s.dump.skipped),
    (0, Nat.min 0xFF s.dump.taken)]

/-- What a read of a register returns (R16 to R20). -/
def readReg (s : State) (r : Reg) : Nat :=
  match r with
  | .vcore d => let x := s.die d; pack [(31, b2n x.busy), (16, x.actual), (0, x.set)]
  | .ramp d => let x := s.die d; pack [(24, x.adm), (8, x.upRate), (0, x.downRate)]
  | .current d => let x := s.die d; pack [(16, x.est), (0, x.meas)]
  | .guardStatus => guardStatus s.power
  | .guardCounts => pack [(48, s.power.resets), (32, s.power.logDropped), (16, s.power.throttles), (0, s.power.holds)]
  | .guardConfig => s.power.cap
  | .xlateFault d k => let f := (s.cluster d k).xfault
    pack [(63, b2n f.valid), (60, f.kind), (58, f.engine), (52, f.lcore), (0, f.va)]
  | .xlateCounts d k => pack [(32, (s.cluster d k).winMiss), (0, (s.cluster d k).granMiss)]
  | .nearErrors d k => (s.cluster d k).near.pack
  | .farErrors d ch => (get ⟨0, 0, 0⟩ (s.die d).far ch).pack
  | .scrub d => pack [(32, (s.die d).passes true % 2 ^ 32), (0, (s.die d).passes false % 2 ^ 32)]
  | .rackStatus d e => rackStatus s d e
  | .rackCounts d e => let x := s.rack d e; pack [(40, x.sectors), (20, x.demoted), (0, x.promoted)]
  | .rackControl _ _ => 0
  | .partConfig p => partConfig p (s.part p)
  | .partSwitch p => let x := s.part p; pack [(32, x.count), (16, x.last), (0, x.drain)]
  | .partClearing p => let x := s.part p; pack [(8, x.timeouts), (0, x.applies)]
  | .partReset p => let x := s.part p; pack [(48, x.resets), (40, x.aborted), (32, x.resumed), (0, x.lastReset)]
  | .partBarrier p b => barrierState (nth .empty (s.part p).barriers b)
  | .trellisStatus => let t := s.trellis; pack [(60, t.result), (59, t.scope), (58, b2n t.applied), (0, t.serial % 2 ^ 48)]
  | .portStatus p => portStatus (s.port p)
  | .portQos p => (s.port p).qos
  | .portDscp p => (s.port p).dscp
  | .portRatectl p => (s.port p).ratectl
  | .portLinkCounts p => let x := s.port p; pack [(48, x.fecUncorr), (32, x.downs), (0, x.fecCorr)]
  | .portRoceCounts p => let x := s.port p; pack [(48, x.rnrSent), (32, x.accNak), (16, x.seqNak), (0, x.unknown)]
  | .portCongestion p => let x := s.port p; pack [(48, x.cnpRx), (32, x.cnpTx), (16, x.pfcTx), (0, x.pfcRx)]
  | .portDrops p => let x := s.port p; pack [(48, x.dOver), (32, x.dUnsup), (16, x.dBuf), (0, x.dIcv)]
  | .sessionStatus => sessionStatus s
  | .collStatus p => let l := (s.port p).colls
    pack [(16, (l.filter (fun c => c.2.st == .held)).length), (0, (l.filter (fun c => c.2.st != .closed)).length)]
  | .collRounds p => let x := s.port p; pack [(48, x.cRestarted), (32, x.cAbandoned), (0, x.cCompleted)]
  | .collWire p => let x := s.port p; pack [(32, x.wSat), (16, x.wPoison), (0, x.wNotReady)]
  | .collDrops p => let x := s.port p; pack [(48, x.xInc), (32, x.xEpoch), (16, x.xHeader), (0, x.xHop)]
  | .cellarBoot => let f := s.fw
    pack [(29, f.bootDie), (28, b2n f.elected), (27, b2n f.loaded), (26, b2n f.inService), (16, f.candidates), (0, f.badImages)]
  | .cellarCore d n => let c := cellarCore s d n; pack [(29, c.st), (26, c.role), (8, c.wdog), (0, c.restarts)]
  | .cellarWdog d n => pack [(16, (cellarCore s d n).window)]
  | .cellarTime d => (s.die d).time
  | .healthHang d => (s.die d).hangWin
  | .healthReports d => let x := s.die d; pack [(48, x.repDropped), (32, x.reports.length), (0, x.seq)]
  | .healthCounts d => let x := s.die d; pack [(48, x.cEcc), (32, x.cPoison), (16, x.cStall), (0, x.cHang)]
  | .dieFence => pack [(32, s.power.fenceDropped), (8, (s.power.fromStart.map (2 ^ ·)).sum), (0, (s.power.fenced.map (2 ^ ·)).sum)]
  | .dumpStatus => dumpStatus s
  | .copSpares d => copSpares s d
  | .copRates d => copRates s d
  | .availCounts => pack [(32, s.interrupted / 1000), (0, serviceMin s)]
  | .syncHold _ => 0
  | .paceStatus c | .workBeats c | .coverBeats c | .coverControl c | .opeConfig c | .opeStatus c | .opeBank c _ | .opeSkew c
  | .opeRemap c _ | .opeEscapes c | .tstoreErrors c | .fmtErrors c | .accFlags c | .accLast c | .accReadout c | .ccStatus c
  | .ccConsumed c | .ccRetired c | .ccFault c | .ccFaultWord c | .ccMark c | .ccLc c _ | .veControl c | .veCheck c | .teIndex c
  | .veTrain c | .syncWaitState c | .syncWaitPolls c | .syncBackoff c | .syncTimeout c | .syncUnfenced c | .syncXlate c
  | .streamRing c _ | .lateSlots c | .streamFlow c | .teOutstanding c => readCore s (ck c) r

/-! ### Writes (R17, R19) -/

/-- A write of a core's register. DESIGN CHOICE: a later read of MAX_BEATS returns what was written, and `coverMax` takes it
as 2,500 at most (log 68). -/
def writeCore (s : State) (k : Nat) (r : Reg) (v : Nat) : State :=
  let one := bit v 63
  match r with
  | .coverControl _ => s.regs k (fun g => { g with maxBeats := v % 2 ^ 16 })
  | .opeSkew _ => s.regs k (fun g => { g with skew := { g.skew with valid := g.skew.valid && !one } })
  | .ccFault _ => s.regs k (fun g => { g with stop := { g.stop with valid := g.stop.valid && !one } })
  | .veControl _ => s.onCx k (fun x => { x with check := bit v 0 })
  | .veCheck _ => s.regs k (fun g => { g with check := { g.check with valid := g.check.valid && !one } })
  | .syncBackoff _ => s.regs k (fun g => { g with memMax := bits v 23 16, ctrMax := bits v 15 8, full := bits v 7 0 })
  | .syncTimeout _ => s.regs k (fun g => { g with timeout := { g.timeout with valid := g.timeout.valid && !one } })
  | .syncUnfenced _ => s.regs k (fun g => { g with unfenced := { g.unfenced with valid := g.unfenced.valid && !one } })
  | .syncHold _ =>
    [(0, Engine.ope), (1, .ve), (2, .te)].foldl (fun (s : State) e => if bit v e.1 then s.onEng k e.2 (fun x => { x with held := false }) else s) s
  | _ => s

/-- REGISTER_WRITE (R17, R19): RW fields take the value, a 1 clears a W1C bit, WO bits act, and the rest of the word is
ignored. A register that a row of its own writes does what that row does. DESIGN CHOICE: UP_RATE, DOWN_RATE, SET,
THROTTLE_CAP and HEALTH.HANG.WINDOW read back as the value they were taken as, and WDOGn.WINDOW as written (log 68). -/
def execRegisterWrite (r : Reg) (value : BitVec 128) (s : State) : Res :=
  let v := value.toNat
  match r with
  | .vcore d => onDie d s (fun s => setVcore s d (v % 256))
  | .ramp d => onDie d s (fun s => s.setDie d { s.die d with upRate := Nat.min 50 (bits v 15 8), downRate := Nat.min 50 (bits v 7 0) })
  | .guardStatus => .next { s with power := { s.power with minSeen := 0xFFF } }
  | .guardConfig => .next { s with power := { s.power with cap := Nat.max 50 (Nat.min 90 (v % 256)) } }
  | .xlateFault d k => onUnit d k 8 s (fun s =>
      let x := s.cluster d k
      s.setCluster d k { x with xfault := { x.xfault with valid := x.xfault.valid && !bit v 63 } })
  | .nearErrors d k => onUnit d k 8 s (fun s => s.setCluster d k { s.cluster d k with near := ⟨0, 0, 0⟩ })
  | .farErrors d ch => onUnit d ch 16 s (fun s => s.setDie d { s.die d with far := put (s.die d).far ch ⟨0, 0, 0⟩ })
  | .rackControl d e => onUnit d e 16 s (fun s => if bit v 0 then resetRack s d e else s)
  | .portQos p => onPort p s (fun s => s.setPort p { s.port p with qos := bits v 23 16 * 2 ^ 16 + bits v 14 3 * 8 })
  | .portDscp p => onPort p s (fun s => s.setPort p { s.port p with
      dscp := pack [(24, bits v 29 24), (16, bits v 21 16), (8, bits v 13 8), (0, bits v 5 0)] })
  | .portRatectl p => onPort p s (fun s => s.setPort p { s.port p with ratectl := bits v 31 6 * 64 })
  | .cellarWdog d n => onUnit d n 5 s (fun s =>
      let c := { cellarCore s d n with window := bits v 31 16 }
      setCellar s d n (if bit v 0 then { c with kick := (s.die d).time } else c))
  | .healthHang d => onDie d s (fun s => s.setDie d { s.die d with hangWin := Nat.max 50000 (Nat.min 25000000 (v % 2 ^ 25)) })
  | .coverControl c | .opeSkew c | .ccFault c | .veControl c | .veCheck c | .syncBackoff c | .syncTimeout c | .syncUnfenced c
  | .syncHold c => onCore c s (fun k s => writeCore s k r v)
  | .paceStatus c | .workBeats c | .coverBeats c | .opeConfig c | .opeStatus c | .opeBank c _ | .opeRemap c _ | .opeEscapes c
  | .tstoreErrors c | .fmtErrors c | .accFlags c | .accLast c | .accReadout c | .ccStatus c | .ccConsumed c | .ccRetired c
  | .ccFaultWord c | .ccMark c | .ccLc c _ | .teIndex c | .veTrain c | .syncWaitState c | .syncWaitPolls c | .syncXlate c
  | .streamRing c _ | .lateSlots c | .streamFlow c | .teOutstanding c => onCore c s (fun _ s => s)
  | .current d | .scrub d | .cellarTime d | .healthReports d | .healthCounts d | .copSpares d | .copRates d => onDie d s (fun s => s)
  | .xlateCounts d k => onUnit d k 8 s (fun s => s)
  | .rackStatus d e | .rackCounts d e => onUnit d e 16 s (fun s => s)
  | .cellarCore d n => onUnit d n 5 s (fun s => s)
  | .portStatus p | .portLinkCounts p | .portRoceCounts p | .portCongestion p | .portDrops p | .collStatus p | .collRounds p
  | .collWire p | .collDrops p => onPort p s (fun s => s)
  | .partConfig p | .partSwitch p | .partClearing p | .partReset p | .partBarrier p _ => onDie (p / 8) s (fun s => s)
  | .guardCounts | .trellisStatus | .sessionStatus | .cellarBoot | .dieFence | .dumpStatus | .availCounts => .next s

end Sys2Proof.Machine
end

