-- ==== Sys2Proof/Machine/Faults.lean ====
section
/-! DEFINITION. Fault records and their recovery (R463 to R467), hang detection (R468 to R470), samples (R471, R472), the
levels L0 to L4 (R473 to R491), the dump (R492 to R496), the escalation of a teardown (R321). -/

set_option autoImplicit false

namespace Sys2Proof.Machine

/-! ### The record and its recovery (R463 to R466, R470) -/

/-- The 64 bytes of a record (R463). -/
def Fault64.bytes (f : Fault64) : Bytes :=
  natLe 2 f.ctx ++ natLe 1 f.cls ++ natLe 1 f.sev ++ natLe 1 f.die ++ natLe 1 f.unit ++ natLe 2 f.index ++ natLe 8 f.time
    ++ natLe 8 f.whereAt ++ natLe 8 f.a ++ natLe 8 f.b ++ natLe 4 f.step ++ natLe 4 f.keep ++ natLe 4 f.seq ++ natLe 1 f.lcore
    ++ natLe 1 f.engine ++ natLe 2 f.flags ++ natLe 4 f.sample ++ zeros 4

/-- The partition that holds a cluster, or the cluster alone (R470). -/
def l2Of (s : State) (d k : Nat) : Due := .l2 d (match s.partAt d k with | some p => p % 8 | none => k)

/-- The cluster of a core: where it serves, else its home. -/
def coreCluster (s : State) (d phys : Nat) : Nat := (s.clusterOf (68 * d + phys)).getD (2 * pairOf phys)

/-- The die that a link's fence takes (R470): the higher-numbered, or the other when that is the boot die. -/
def linkFence (s : State) (d link : Nat) : Option Due :=
  (linkDie s.model.dies d link).map (fun e =>
    let hi := Nat.max d e
    .l3 (if hi = s.fw.bootDie then Nat.min d e else hi))

/-- Recovery by the unit charged (R470). -/
def hangDue (s : State) (d unit index : Nat) : Option Due :=
  match unit with
  | 1 | 2 | 3 | 4 | 5 => some (l2Of s d (coreCluster s d index))
  | 6 | 7 | 8 | 9 => some (l2Of s d index)
  | 10 => some (l2Of s d (index / 2))
  | 11 => some (.l1rack d index)
  | 12 => some (.l1port index)
  | 14 => linkFence s d index
  | _ => none

/-- The recovery that a record calls for (R465). Tap 7 (SUPPLY reason 1) is decided by raiseVcore. -/
def dueOf (s : State) (f : Fault64) : Option Due :=
  let l0 := if f.ctx = 0xFFFF then none else some (Due.l0 f.ctx)
  match f.cls with
  | 1 | 2 | 3 | 5 => l0
  | 4 => if f.a % 256 = 32 then hangDue s f.die f.unit f.index else l0
  | 9 => if f.sev = 4 then some (.l3 f.die) else if f.sev = 5 then some (.l4 true) else none
  | 10 => if f.a % 256 = 2 then some (.l3 f.die) else none
  | _ => none

/-- SEVERITY of a recovery (R463). -/
def Due.sev : Due → Nat
  | .l0 _ => 1
  | .l1port _ => 2
  | .l1rack _ _ => 2
  | .l2 _ _ => 3
  | .l3 _ => 4
  | .l4 _ => 5

/-- A partition enters clearing for a reset (R295, R479): a switch that has begun on it stops, and its CTX_SCHEDULE
completes with BUSY; one that waits for its MODE waits on. Where the outgoing context can be saved it is STOPPED (R529). -/
def enterClearing (s : State) (p : Nat) : State :=
  let x := s.part p
  let s0 := flipTeardowns s p
  if x.st ≠ .inService then s0 else
  let s1 := s0.setPart p { x with st := .inClearing }
  match x.sw with
  | some w =>
    if !(w.begun || x.resident.isNone || mayGo s p w.mode) then s1 else
    let s2 := done_ (s1.setPart p { s1.part p with sw := none }) w.uid stBusy
    match x.resident with
    | some c => if w.begun && (s2.ctx c).st == .resident && !partHalted s2 p then
        let t := drainOps s2 p c
        if drained t p c then switchOut t p c else t
      else s2
    | none => s2
  | none => s1

/-- RESET_NOTICE, REJOIN for the collective contexts of a context (R419, R421). -/
def onColls (s : State) (ctx : Nat) (f : State → Nat → Nat → State) : State :=
  (s.ctx ctx).colls.foldl (fun (s : State) c => match s.coll c.2.1 c.2.2 with
    | some x => if x.st = .closed then s else f s c.2.1 c.2.2
    | none => s) s

/-- And of every context on a partition that a test selects. -/
def onPartColls (s : State) (p : Nat) (f : State → Nat → Nat → State) (test : Nat → Ctx → Bool) : State :=
  (keysWhere s.ctxs (fun i x => x.part == p && test i x)).foldl (fun (s : State) c => onColls s c f) s

/-- Call for an L2: a second one of a partition within 10 ms of the first is an L3 (R474). The partition is in clearing from
here on (R295, R479 step 1), an apply that had it in clearing is abandoned (R305), and the ports send RESET_NOTICE for the
collective contexts of every context on it (R419). Answers the severity. -/
def callL2 (s : State) (d first : Nat) : Nat × State :=
  let soon := match (s.part (8 * d + first)).lastResetAt with
    | some t => decide ((s.die d).time < t + 250000)
    | none => false
  if s.due.contains (.l4 true) then (5, s)
  else if s.due.contains (.l3 d) then (4, s)
  else if soon && !s.due.contains (.l2 d first) then (4, callL3 s d)
  else if s.due.contains (.l2 d first) then (3, s)
  else
    let s := match s.trellis.applying with
      | some (e, f, n, _) => if (affected s e f n).contains (8 * d + first) then abandonApply s else s
      | none => s
    (3, (if s.hasPart (8 * d + first) then
        onPartColls (enterClearing s (8 * d + first)) (8 * d + first) (fun s q i => ctlSend s q i 0x10) (fun _ _ => true)
      else s).addDue (.l2 d first))

/-- Take what a recovery calls for; answers the severity that the record carries (R487). -/
def callFor (s : State) (r : Option Due) (sev : Nat) : Nat × State :=
  match r with
  | none => (sev, s)
  | some (.l2 d first) => callL2 s d first
  | some (.l3 d) => (4, callL3 s d)
  | some (.l4 true) => (5, callL4 s)
  | some (.l0 c) => (if l2On s c then 3 else 1, s.addDue (.l0 c))
  | some r => (r.sev, s.addDue r)

/-- Whether VCORE of a die may rise by the 20 mV of R56: not above its limit, nor against the thermal throttle. -/
def mayRaiseV (s : State) (d : Nat) : Bool := (s.die d).thrV == 0 && decide ((s.die d).set + 4 ≤ vcoreTop s d)

/-- VCORE rises by 20 mV and the cluster is released (R56): rounds of its partition's barriers that its arrivals have made complete,
and an apply that waits for it goes on. -/
def raiseVcore (s : State) (d k : Nat) : State :=
  let y := s.die d
  let s1 := (s.setDie d { y with set := y.set + 4, busy := true }).setCluster d k { s.cluster d k with halted := false }
  match s1.partAt d k with
  | some p => applyGo ((List.range 16).foldl (fun (s : State) n => settleBarrier p n 5 s) s1)
  | none => s1

/-- The FAULT event, with the copy of the record in a session's fault area (R446): made even when the event is dropped. -/
def faultTo (x : Session) (f : Fault64) (time : Nat) : Session :=
  if !x.opened then x else
  let y := { x with space := Mem.setBytes x.space (0x190000 + x.faultProd % 4096 * 64) f.bytes, faultProd := x.faultProd + 1 }
  eventTo y 1 f.die time (natLe 1 f.cls ++ natLe 1 f.sev ++ natLe 2 f.ctx ++ zeros 4 ++ natLe 8 x.faultProd)

def postFault (s : State) (f : Fault64) : State :=
  let t := (s.die f.die).time
  match look s.ctxs f.ctx with
  | some c => match look s.sess c.sess with
    | some x => s.setSess c.sess (faultTo x f t)
    | none => s
  | none => s.onOpen (fun x => faultTo x f t)

/-- CC-M2 of a die writes a record (R466): into the log of 4,096, with its number, counted by class, as a FAULT event, and from
severity DIE on as an entry of the event log. Answers the record. -/
def writeRecord (s : State) (d : Nat) (f : Fault64) (sev : Nat) : Fault64 × State :=
  let x := s.die d
  let r := { f with sev := sev, seq := x.seq }
  let n := fun (c : Nat) (v : Nat) => if f.cls = c then hold 16 v 1 else v
  let s1 := s.setDie d { x with
    log := (x.log ++ [r]).drop (x.log.length + 1 - 4096), seq := (x.seq + 1) % 2 ^ 32
    cEcc := n 6 x.cEcc, cPoison := n 5 x.cPoison, cStall := n 3 x.cStall, cHang := n 4 x.cHang }
  let s2 := postFault s1 r
  (r, if 4 ≤ sev then logEntry s2 1 f.die r.bytes else s2)

/-- FAULT_REPORT: CC-M2 of a die completes the first report that waits: it writes the record and calls for the recovery (R465, R466,
R474), of which the record is then a cause. -/
def execFaultReport (d : Nat) (s : State) : Res :=
  onDie d s (fun s =>
    match (s.die d).reports with
    | [] => s
    | f :: rest =>
      if !roleUp s d 2 then s else
      let s0 := s.setDie d { s.die d with reports := rest }
      let tap7 := f.cls == 10 && f.a % 256 == 1
      let r := if !tap7 then dueOf s0 f else if mayRaiseV s0 d then none else some (l2Of s0 d f.whereAt)
      let (sev, s1) := if tap7 && r.isNone then (0, raiseVcore s0 d f.whereAt) else callFor s0 r (if f.cls = 9 then f.sev else 0)
      let (x, s2) := writeRecord s1 d f sev
      (s1.due.filter (fun q => !s0.due.contains q || r == some q)).foldl (fun (s : State) q => s.addCause q x) s2)

/-! ### Hang detection (R250, R468 to R470) -/

/-- The far or near channel of a physical address, as a unit. -/
def channelOf (a : Nat) : Option (Nat × Nat × Nat) :=
  match tierOf a with
  | .near d k => some (d, 9, k)
  | .far d ch => some (d, 10, ch)
  | .control _ => none
  | .none => none

/-- The channels of n bytes of one granule from a physical address: the two of a cluster's far device take turns every 256 bytes. -/
def channelsOf (a n : Nat) : List (Nat × Nat × Nat) :=
  (channelOf a).toList ++ (if 256 < a % 256 + n then (channelOf (a / 256 * 256 + 256)).toList else [])

/-- The access that the i-th run of an operation makes. -/
def TeOp.acc (o : TeOp) (i : Nat) : Acc :=
  match o.kind with
  | .store _ _ | .zero _ => .write
  | .scatter _ _ _ add => if add then .atomic else .write
  | .late _ add => if add.isSome then .atomic else .write
  | .madd _ _ => .atomic
  | .copy _ => if i % 2 = 0 then .read else .write
  | _ => .read

/-- The accesses of an operation, granule by granule: where each stands, and its bytes. -/
def opLocs (s : State) (k : Nat) (o : TeOp) : List (Loc × Nat) :=
  (opRuns (s.core k) o).zipIdx.flatMap (fun r => (granVas r.1.1 r.1.2).map (fun v =>
    (locate s o.ctx v (o.acc r.2) true, Nat.min (r.1.1 + r.1.2) ((v / 65536 + 1) * 65536) - v)))

/-- The links that lead from a cluster of a context to an address, and then the channels of n bytes there. -/
def wayTo (s : State) (ctx kc a n : Nat) : List (Nat × Nat × Nat) :=
  (s.linksTo ctx kc (bits a 44 42)).map (fun x => (x.1, 14, x.2)) ++ channelsOf a n

/-- What a TE operation waits on, the farthest unit last: its translation unit, the racking engine of a moving granule, the
port, or the channel of its first line behind the links that lead there (R250). -/
def opOn (s : State) (k : Nat) (o : TeOp) : List (Nat × Nat × Nat) :=
  let c := s.core k
  match o.kind with
  | .put _ _ p _ => [(portDie p, 12, p)]
  | .tred p _ _ => [(portDie p, 12, p)]
  | _ =>
    if o.waits.isSome then [(c.die, 6, c.cluster)] else
    let ls := opLocs s k o
    match ls.findSome? (fun l => match l.1 with | .waits obj _ => (look s.objs obj).map (fun x => (obj / 2 ^ 17, 11, x.engine)) | _ => none) with
    | some u => [u]
    | none => match ls with
      | (.at_ a _ _, _) :: _ => wayTo s o.ctx c.cluster a 1
      | _ => []

/-- The links and channels that an operation's accesses keep waiting (R468). -/
def opUnits (s : State) (k : Nat) (o : TeOp) : List (Nat × Nat × Nat) :=
  if o.refused || o.waits.isSome then [] else
  (opLocs s k o).flatMap (fun l => match l.1 with
    | .at_ a _ _ => wayTo s o.ctx (s.core k).cluster a l.2
    | _ => [])

/-- The ring that an engine waits on for its next slot. -/
def waitsOn (c : Core) (e : Nat) : Option Nat :=
  (List.range 32).find? (fun r => (c.ring r).geom.valid && (c.ring r).geom.cons == e && (c.ring r).lateSeen)

/-- The operation that fills a ring of a core, and the core that issued it. -/
def fillerOf (s : State) (k r : Nat) : Option (Nat × TeOp) :=
  let p := (s.core k).part
  ((s.partCores p).flatMap (fun m => (s.core m).hw.ops.map (fun o => (m, o)))).find? (fun x => match x.2.kind with
    | .fill r' _ _ => x.1 == k && r' == r
    | .refill r' _ _ => x.1 == k && r' == r
    | .reindex r' _ _ => x.1 == k && r' == r
    | .reload r' _ _ _ => x.1 == k && r' == r
    | .mcast r' cores _ => r' == r && cores.any (fun c => c.1 == k)
    | _ => false)

/-- Whether a command in the TE queue of core m fills a ring of core k: by its own TE, or by a multicast (R250, R256). -/
def fillsRing (s : State) (m k r : Nat) (n : QEntry) : Bool :=
  let w := n.word
  (opcode w == 0xC1 || opcode w == 0xC3) && wf w 111 107 == r && n.st != .done
    && !(s.core m).cx.begun.any (fun t => t.seq == n.seq && t.issuedAll)
    && (if opcode w == 0xC1 && bit w.toNat 86 then (s.groupCores (s.core m).part (wf w 85 80)).contains k else m == k)

/-- The core whose TE has a command for a ring of a core, begun or not. -/
def issuerOf (s : State) (k r : Nat) : Option Nat :=
  (s.partCores (s.core k).part).find? (fun m => (s.core m).cx.te.q.any (fillsRing s m k r))

/-- Whether the OPE or the VE of a core has a command that fills a ring: an ACCREAD, a VE command by its DST or its MOUT. -/
def makes (c : Core) (e r : Nat) : Bool :=
  if e = 1 then c.cx.ope.q.any (fun n => n.st != .done && opcode n.word == 0x43 && wf n.word 109 105 == r)
  else c.cx.ve.q.any (fun n => n.st != .done && engineOf n.word == 2 && 0x80 ≤ opcode n.word
    && (veDst n.word == r || (opcode n.word == 0x8D && veMout n.word == r)))

/-- Where an engine waits for ullage: the core and the ring that has none. For a multicast it is the slowest member's (R256). -/
def roomWait (s : State) (k e : Nat) : Option (Nat × Nat) :=
  let c := s.core k
  let full := fun (m r : Nat) => if (s.core m).ring r |>.tailFree then none else some (m, r)
  match e with
  | 1 => (c.cx.ope.q.find? (fun n => n.st == .begun && opcode n.word == 0x43)).bind (fun n => full k (wf n.word 109 105))
  | 2 => (c.cx.veCmd.bind (fun v => c.cx.ve.q.find? (fun n => n.seq == v.seq))).bind (fun n =>
      (full k (veDst n.word)).orElse (fun _ => if opcode n.word = 0x8D then full k (veMout n.word) else none))
  | _ => c.cx.begun.findSome? (fun t =>
      if !(t.op == 0xC1 || t.op == 0xC3) || t.issuedAll then none
      else if t.op == 0xC1 && bit t.word.toNat 86 then
        (s.groupCores c.part (wf t.word 85 80)).findSome? (fun m => full m (wf t.word 111 107))
      else full k (wf t.word 111 107))

/-- Follow the chain from an engine of a core (R250): the units of the transfer or the unit where it ends. It ends at an engine that
waits by a WAIT, WAITMEM or BARRIER, and at the consumer where no command on the ring produces. -/
def chainEnd (s : State) : Nat → Nat → Nat → List (Nat × Nat × Nat)
  | 0, k, e => [(k / 68, 1 + e, k % 68)]
  | n + 1, k, e =>
    let c := s.core k
    let own := [(k / 68, 1 + e, k % 68)]
    let path := fun (m : Nat) (o : TeOp) => let l := opOn s m o; if l.isEmpty then [(m / 68, 4, m % 68)] else l
    if (if e = 1 then c.cx.ope else if e = 2 then c.cx.ve else c.cx.te).wait.isSome then own else
    match waitsOn c e with
    | some r =>
      let prod := (c.ring r).geom.prod
      if prod = 1 ∨ prod = 2 then
        (if makes c prod r then chainEnd s n k prod else own)
      else match fillerOf s k r with
        | some (m, o) => path m o
        | none => match issuerOf s k r with
          | some m => chainEnd s n m 3
          | none => own
    | none => match roomWait s k e with
      | some (m, r) => chainEnd s n m ((s.core m).ring r).geom.cons
      | none => if e = 3 then (match c.hw.ops with | o :: _ => path k o | [] => own) else own

/-- The progress counter of a unit (R468). -/
def progressOf (s : State) (d unit index : Nat) : Nat :=
  let h := (s.core (68 * d + index)).hw
  match unit with
  | 1 => nth 0 h.progress 0
  | 2 => nth 0 h.progress 1 + nth 0 h.retired 1
  | 3 => nth 0 h.progress 2 + nth 0 h.retired 2
  | 4 => nth 0 h.progress 3 + nth 0 h.retired 3
  | 6 => (s.cluster d index).xlated
  | 9 => (s.cluster d index).accesses
  | 10 => get 0 (s.die d).farAcc index
  | 11 => (s.rack d index).done
  | 12 => (s.port index).packets
  | 14 => get 0 (s.die d).links (linkDir index 0) + get 0 (s.die d).links (linkDir index 1)
  | _ => 0

/-- The channels of the accesses of racking operations under way. -/
def rackUnits (s : State) : List (Nat × Nat × Nat) :=
  s.objs.flatMap (fun p => p.2.live.flatMap (fun g => match p.2.grans[g]? with
    | some e => channelsOf (nearAddr p.1 e.near) 65536 ++ channelsOf (farAddr p.1 e.far) 65536
    | none => []))

/-- The units that the words read for a WAITMEM keep waiting. -/
def waitUnits (s : State) (k : Nat) : List (Nat × Nat × Nat) :=
  let c := s.core k
  ([c.cx.ope, c.cx.ve, c.cx.te].filterMap Eng.wait).flatMap (fun w =>
    if w.kind ≠ .mem ∨ !w.inFlight then [] else
    match locate s (c.ctx.getD 0xFFFF) w.obj .read false with
    | .at_ a _ _ => wayTo s (c.ctx.getD 0xFFFF) c.cluster a 8
    | _ => [])

/-- Whether an access on a channel, or traffic on a link, is pending: of a TE or a WAITMEM, of a racking engine, of the copy of a
bank (R468). -/
def accessOn (s : State) (d unit index : Nat) : Bool :=
  let u := (d, unit, index)
  s.cores.any (fun c => c.2.hw.ops.any (fun o => (opUnits s c.1 o).contains u) || (waitUnits s c.1).contains u)
    || (rackUnits s).contains u || (unit == 9 && !(s.cluster d index).copying.isEmpty)

/-- Whether a translation is pending in the translation unit of a cluster: of an operation, of a counter, of a write that it holds. -/
def xlatePending (s : State) (d k : Nat) : Bool :=
  s.cores.any (fun c => c.1 / 68 == d && c.2.cluster == k && c.2.ctx.isSome
      && [c.2.cx.ope, c.2.cx.ve, c.2.cx.te].any (fun e => e.filling.isSome))
    || s.cores.any (fun c => c.1 / 68 == d && c.2.cluster == k && c.2.hw.ops.any (fun o => !o.refused && o.waits.isSome))
    || s.owed.any (fun w => w.ctx / 1024 == d && w.from_ == k)

/-- Whether a unit has work (R468). -/
def hasWork (s : State) (d unit index : Nat) : Bool :=
  let c := s.core (68 * d + index)
  match unit with
  | 1 => c.ctx.isSome && (decide (c.cx.cc.consumer < c.cx.cc.producer) || !c.cx.cc.frames.isEmpty)
  | 2 => !c.cx.ope.q.isEmpty
  | 3 => !c.cx.ve.q.isEmpty
  | 4 => !c.cx.begun.isEmpty
  | 6 => xlatePending s d index
  | 9 => accessOn s d 9 index
  | 10 => accessOn s d 10 index
  | 14 => accessOn s d 14 index
  | 11 => decide (0 < rackOps s d index) || (rackObjs s d index).any (fun p => !p.2.queue.isEmpty)
  | 12 => let x := s.port index
    x.qps.any (fun q => q.2.live && !q.2.error && !q.2.unacked.isEmpty)
      || x.colls.any (fun c => c.2.st != .closed && (!c.2.unacked.isEmpty || !c.2.ctls.isEmpty)) || !x.waiting.isEmpty
  | _ => false

/-- The partition of a unit's cluster, when the unit lies in one. -/
def unitPart (s : State) (d unit index : Nat) : Option Nat :=
  match unit with
  | 1 | 2 | 3 | 4 | 5 => if (s.core (68 * d + index)).ctx.isSome then some (s.core (68 * d + index)).part else none
  | 6 | 7 | 8 | 9 => s.partAt d index
  | 10 => s.partAt d (index / 2)
  | _ => none

/-- Whether a unit is under L1 or L2 reset, or an L2 that takes it is called for (R470; log 34). -/
def inReset (s : State) (d unit index : Nat) : Bool :=
  match hangDue s d unit index with
  | some r => s.due.contains r
  | none => false

/-- The engine of a core that a unit code names. -/
def engOf (c : Core) (unit : Nat) : Option Eng :=
  match unit with | 2 => some c.cx.ope | 3 => some c.cx.ve | 4 => some c.cx.te | _ => none

/-- What excuses a unit (R470): a wait, a held queue, a stop, a reset, clearing. -/
def excused (s : State) (d unit index : Nat) : Bool :=
  let c := s.core (68 * d + index)
  inReset s d unit index
    || (match unitPart s d unit index with | some p => (s.part p).st != .inService | none => false)
    || (match engOf c unit with
      | some e => e.wait.isSome || e.held || e.stopped || (unit == 2 && c.cx.halted)
      | none => unit == 1 && (c.ccIdle || c.cx.cc.stopped || c.cx.cc.quiesced || c.cx.cc.stalled || c.cx.cc.waitWords))

/-- The window by which a unit is judged, and the context that its chain starts from (R469). -/
def hangSpan (s : State) (d unit index : Nat) : Nat × Nat :=
  let c := s.core (68 * d + index)
  match (if 1 ≤ unit ∧ unit ≤ 4 then c.ctx else none) with
  | some x => ((s.ctx x).stallWin, x)
  | none => ((s.die d).hangWin, 0xFFFF)

/-- Note a unit's progress: the time since which it has not changed. -/
def noteUnit (s : State) (d unit index : Nat) : State :=
  let x := s.die d
  let v := progressOf s d unit index
  let t := match look x.hang (unitKey unit index) with
    | some (w, t) => if w = v ∧ hasWork s d unit index then t else x.time
    | none => x.time
  s.setDie d { x with hang := put x.hang (unitKey unit index) (v, t) }

/-- Whether a unit has stood still for a window. -/
def still (s : State) (d unit index win : Nat) : Bool :=
  match look (s.die d).hang (unitKey unit index) with
  | some (v, t) => v == progressOf s d unit index && decide (t + win ≤ (s.die d).time)
  | none => false

/-- HANG_SAMPLE: CC-M2 samples a unit, and the units where its chain ends; with work and no progress over the window the
farthest of these that stands still is charged with HANG, REASON 32 (R250, R470). -/
def execHangSample (u : UnitRef) (s : State) : Res :=
  onDie u.die s (fun s =>
    let d := u.die
    if !roleUp s d 2 then s
    else if excused s d u.kind u.index then s.setDie d { s.die d with hang := del (s.die d).hang (unitKey u.kind u.index) }
    else
      let path := if 2 ≤ u.kind ∧ u.kind ≤ 4 then chainEnd s 8 (68 * d + u.index) (u.kind - 1) else [(d, u.kind, u.index)]
      let s1 := path.foldl (fun (s : State) x => noteUnit s x.1 x.2.1 x.2.2) (noteUnit s d u.kind u.index)
      let (win, ctx) := hangSpan s d u.kind u.index
      let (ed, ek, ei) := (path.reverse.find? (fun x => still s1 x.1 x.2.1 x.2.2 win)).getD ((path.getLast?).getD (d, u.kind, u.index))
      if !hasWork s1 d u.kind u.index || !still s1 d u.kind u.index win || !still s1 ed ek ei win || excused s1 ed ek ei then s1
      else
        let f := { Fault64.blank with ctx := ctx, cls := 4, die := ed, unit := ek, index := ei, a := 32, b := progressOf s1 ed ek ei }
        let s2 := report s1 (if ctx = 0xFFFF then f else
          let c := s.core (68 * d + u.index)
          { f with step := c.cx.cc.step, keep := c.cx.cc.keep, lcore := c.lcore
                   engine := if 2 ≤ ek ∧ ek ≤ 4 then ek - 1 else if ek = 1 then 0 else 0x80 })
        let again := fun (s : State) (d k i : Nat) => s.setDie d { s.die d with hang := del (s.die d).hang (unitKey k i) }
        again (again s2 d u.kind u.index) ed ek ei)

/-! ### Samples (R471, R472) -/

/-- A core's registers in the order of their field maps (R76, R112, R143, R166, R204, R232, R260, R350). -/
def coreRegs (c : CoreId) : List Reg :=
  let n4 := List.range 4
  [.paceStatus c, .workBeats c, .coverBeats c, .coverControl c, .opeConfig c, .opeStatus c] ++ n4.map (.opeBank c) ++ [.opeSkew c]
    ++ n4.map (.opeRemap c) ++ [.opeEscapes c, .tstoreErrors c, .fmtErrors c, .accFlags c, .accLast c, .accReadout c, .ccStatus c,
      .ccConsumed c, .ccRetired c, .ccFault c, .ccFaultWord c, .ccMark c] ++ (List.range 16).map (.ccLc c)
    ++ [.veControl c, .veCheck c, .teIndex c, .veTrain c, .syncWaitState c, .syncWaitPolls c, .syncBackoff c, .syncTimeout c,
      .syncHold c, .syncUnfenced c, .syncXlate c] ++ (List.range 32).map (.streamRing c) ++ [.lateSlots c, .streamFlow c, .teOutstanding c]

/-- Bytes of a register's value: CORE.CC.FAULT_WORD has 128 bits, the others 64. -/
def regBytes (s : State) (r : Reg) : Bytes :=
  match r with
  | .ccFaultWord _ => natLe 16 (readReg s r)
  | _ => natLe 8 (readReg s r)

/-- Loop counters, comparators and active loops of a CC (R472): each counter in 8 bytes, each comparator and each number of a loop's
state in 4. -/
def loopBytes (x : CC) : Bytes :=
  x.lcs.flatMap (natLe 8) ++ x.cmps.flatMap (fun p => natLe 4 p.lc ++ natLe 4 p.op ++ natLe 4 p.imm) ++ natLe 4 x.frames.length
    ++ x.frames.flatMap (fun f => [f.start, f.len, f.pos, f.i, f.count, f.lc].flatMap (natLe 4))

/-- A block filled up with bytes that no rule gives. -/
def fillUp (s : State) (n : Nat) (bs : Bytes) : Bytes × State :=
  let (pad, s1) := freeBytes s (n - bs.length)
  ((bs ++ pad).take n, s1)

/-- The block of one core: 20 KiB. DESIGN CHOICE: R472 gives no layout of the loop state and no addresses of the registers; they
stand as `loopBytes` lays them, and in the order of the field maps, with free bytes behind (log 29). -/
def sampleBlock (s : State) (k : Nat) : Bytes × State :=
  let c := s.core k
  let words := fun (q : List QEntry) => fit 1024 (q.flatMap (fun n => natLe 16 n.word.toNat))
  let (loops, s1) := fillUp s 0x400 (loopBytes c.cx.cc)
  let (regs, s2) := fillUp s1 0x2000 ((coreRegs ⟨k / 68, k % 68⟩).flatMap (regBytes s))
  let lines := c.hw.lastLines.take 60
  (words c.cx.ope.q ++ words c.cx.ve.q ++ words c.cx.te.q ++ fit 4096 (c.cx.cc.buf.flatMap (fun w => natLe 16 w.toNat)) ++ loops ++ regs
    ++ natLe 4 lines.length ++ natLe 1 (k % 68) ++ zeros 11 ++ fit 240 (lines.flatMap (natLe 4))
    ++ fit 3840 (lines.flatMap (fun l => Mem.bytes c.hw.tstore (64 * l) 64)), s2)

/-- A sample of a partition's cores, written into the sample store, unless a dump is kept or there is no region (R471,
R472, R493, R496). Answers its number. -/
def takeSample (s : State) (p seq : Nat) : Option Nat × State :=
  if !dumpThere s || s.fenced s.fw.bootDie || s.dump.st != 0 then (none, s) else
  let ks := s.partCores p
  let (blocks, s1) := ks.foldl (fun (a : Bytes × State) k => let b := sampleBlock a.2 k; (a.1 ++ b.1, b.2)) ([], s)
  let n := s1.dump.taken
  let head := natLe 4 n ++ natLe 1 (p / 8) ++ natLe 1 (p % 8) ++ natLe 2 ks.length ++ natLe 8 (s.die (p / 8)).time ++ natLe 4 seq ++ zeros 44
  let bytes := head ++ blocks
  let at_ := match s1.dump.samples.getLast? with
    | some (_, o, len, _) => let nx := o + ceilDiv len 65536 * 65536; if nx + bytes.length ≤ 0x4000000 then nx else 0
    | none => 0
  let old := s1.dump.samples.filter (fun x => decide (x.2.1 + x.2.2.1 ≤ at_) || decide (at_ + bytes.length ≤ x.2.1))
  (some n, { s1 with dump := { s1.dump with
    samples := old ++ [(n, at_, bytes.length, seq)], taken := n + 1, bytes := Mem.setBytes s1.dump.bytes at_ bytes } })

/-- Samples of every partition with a resident context, before an L3 or L4 (R471). -/
def sampleAll (s : State) (seq : Nat) : Option Nat × State :=
  (keysWhere s.parts (fun _ y => y.resident.isSome)).foldl (fun (a : Option Nat × State) p =>
    let r := takeSample a.2 p seq
    (r.1.or a.1, r.2)) (none, s)

/-! ### The dump (R492 to R496) -/

/-- Bytes whose number no rule gives. -/
def freeBlock (s : State) (unit : Nat) : Bytes × State :=
  let (n, s1) := s.fresh
  freeBytes s1 (unit * (n % 65536))

/-- The registers of a die's control window (R16 to R20), those that exist once per module on the boot die. -/
def dieRegs (s : State) (d : Nat) : List Reg :=
  let n := fun (k : Nat) => List.range k
  let p := d / 2
  (n 68).flatMap (fun c => coreRegs ⟨d, c⟩) ++ [.vcore d, .ramp d, .current d]
    ++ (n 8).flatMap (fun k => [.xlateFault d k, .xlateCounts d k, .nearErrors d k]) ++ (n 16).map (.farErrors d) ++ [.scrub d]
    ++ (n 16).flatMap (fun e => [.rackStatus d e, .rackCounts d e, .rackControl d e])
    ++ (n 8).flatMap (fun k => [.partConfig (8 * d + k), .partSwitch (8 * d + k), .partClearing (8 * d + k), .partReset (8 * d + k)]
      ++ (n 16).map (.partBarrier (8 * d + k)))
    ++ (if d = portDie p ∧ p < s.model.ports then [.portStatus p, .portQos p, .portDscp p, .portRatectl p, .portLinkCounts p,
      .portRoceCounts p, .portCongestion p, .portDrops p, .collStatus p, .collRounds p, .collWire p, .collDrops p] else [])
    ++ (n 5).flatMap (fun c => [.cellarCore d c, .cellarWdog d c]) ++ [.cellarTime d, .healthHang d, .healthReports d, .healthCounts d,
      .copSpares d, .copRates d]
    ++ (if d = s.fw.bootDie then [.guardStatus, .guardCounts, .guardConfig, .trellisStatus, .sessionStatus, .cellarBoot, .dieFence,
      .dumpStatus, .availCounts] else [])

/-- Entries of a die's REGISTERS section (R495): physical address and value, two for a register of 128 bits. The addresses are free
(log 29). -/
def regEntries (s : State) (d : Nat) : Bytes :=
  (dieRegs s d).zipIdx.flatMap (fun r =>
    let at_ := d * 2 ^ 42 + 0x30000000000 + 8 * (Config.controlAt r.2 % 2 ^ 23)
    let v := regBytes s r.1
    natLe 8 at_ ++ v.take 8 ++ (if v.length = 16 then natLe 8 (at_ + 8) ++ v.drop 8 else []))

/-- The entry of an active core in TILE_FLAGS (R495): LCORE 0xFF and context 0xFFFF where it serves none. -/
def tileFlags (s : State) (k : Nat) : Bytes :=
  let c := s.core k
  natLe 1 (k % 68) ++ natLe 1 (if c.ctx.isSome then c.lcore else 0xFF) ++ natLe 2 (c.ctx.getD 0xFFFF) ++ natLe 4 (accFlags s k)
    ++ natLe 4 (opeStatus c) ++ natLe 4 (ccStatus c)

/-- The sections in the order of capture: type, die, content (R495). The areas of QUEUES, the logs and the journals have no layout
that a rule gives: their bytes are free (log 29). -/
def dumpSections (s : State) : List (Nat × Nat × Bytes) × State :=
  let up := s.dieList.filter (fun d => !s.fenced d)
  let per := fun (s : State) (t : Nat) =>
    up.foldl (fun (a : List (Nat × Nat × Bytes) × State) d => let b := freeBlock a.2 1; (a.1 ++ [(t, d, b.1)], b.2)) ([], s)
  let live := fun (d : Nat) => s.cores.filter (fun c => c.1 / 68 == d && c.2.ctx.isSome)
  let faults := s.dieList.map (fun d => (1, d, (s.die d).log.flatMap Fault64.bytes))
  let regs := up.map (fun d => (2, d, regEntries s d))
  let flags := up.map (fun d => (3, d, (s.choose d 0 8).flatMap (fun x => tileFlags s (68 * d + x))))
  let b := s.fw.bootDie
  let (q, s1) := up.foldl (fun (a : List (Nat × Nat × Bytes) × State) d =>
    let r := freeBytes a.2 (0x4000 * (live d).length)
    (a.1 ++ [(4, d, r.1)], r.2)) ([], s)
  let (logs, s2) := per s1 7
  let (jour, s3) := per s2 8
  (faults ++ regs ++ flags ++ q ++ [(5, b, s.dump.tables.flatten), (6, b, s.dump.samples.flatMap (fun x => natLe 8 x.2.1))] ++ logs ++ jour, s3)

/-- Lay the sections out until the limit is reached: place, directory entries, what was cut. -/
def layDump : List (Nat × Nat × Bytes) → Nat → Nat → Bytes × Bytes × Bool
  | [], _, _ => ([], [], false)
  | (t, d, b) :: rest, off, left =>
    if left = 0 then ([], [], true) else
    let c := b.take left
    let cut := decide (c.length < b.length)
    let e := natLe 2 t ++ natLe 1 d ++ natLe 1 (b2n cut) ++ zeros 4 ++ natLe 8 off ++ natLe 8 c.length ++ fit 8 (Config.shake c 64)
    let (dir, body, more) := layDump rest (off + c.length) (left - c.length)
    (e ++ dir, c ++ body, cut || more)

/-- Capture a dump (R492 to R496): none without a region; a dump kept is not overwritten. How much is captured within the
time allowed is free. Answers whether one was taken. -/
def captureDump (s : State) (level : Nat) (cause : Bytes) : Bool × State :=
  if !dumpThere s then (false, s)
  else if s.dump.st ≠ 0 then (false, { s with dump := { s.dump with skipped := hold 8 s.dump.skipped 1 } })
  else
    let (secs, s1) := dumpSections s
    let (lim, s2) := s1.fresh
    let room := s.dump.size * 2 ^ 30 - 0x4000000 - 4096
    let (dir, body, cut) := layDump (secs.take 120) 0x4001000 (Nat.min lim room)
    let st := if cut then 3 else 2
    let head := natLe 4 0x504D5544 ++ natLe 2 1 ++ natLe 1 st ++ natLe 1 level ++ natLe 8 s.fw.image.release ++ natLe 1 s.model.code
      ++ natLe 1 s.fw.bootDie ++ natLe 2 (dir.length / 32) ++ zeros 4 ++ natLe 8 (bootTime s) ++ natLe 8 (4096 + body.length)
      ++ fit 64 cause ++ zeros 152 ++ fit 3840 dir
    (true, { s2 with dump := { s2.dump with st := st, level := level, bytes := Mem.setBytes s2.dump.bytes 0x4000000 (head ++ body) } })

/-! ### L0 (R475) -/

/-- CONTEXT_ABORT: the abort that a fault or a missed step called for; a reset in progress handles it itself (R487). -/
def execContextAbort (ctx : Nat) (s : State) : Res :=
  .next (if !s.due.contains (.l0 ctx) || l2On s ctx || !roleUp s (ctx / 1024) 0 then s else
    let s1 := s.delDue (.l0 ctx)
    match look s1.ctxs ctx with
    | none => s1
    | some x => if x.st = .closing ∨ x.st = .aborted ∨ x.st = .free then s1 else abortCtx s1 ctx 1)

/-! ### L1 (R477, R478) -/

/-- Queue pairs of a port enter the error state; each context receives one LINK record with reason 5. -/
def portErrors (s : State) (p reason : Nat) : State :=
  let qs := (s.port p).qps.filter (fun q => q.2.live && !q.2.error)
  let s1 := qs.foldl (fun (s : State) q =>
    haltPuts (s.onQp p (q.2.num q.1) (fun x => { x with error := true, unacked := x.unacked.filter SentPkt.onWire, held := [] })) p (q.2.num q.1)) s
  let s1 := pfcAll s1 p
  let first := fun (c : Nat) => qs.find? (fun q => q.2.owner == .ctx c)
  ((qs.map (fun q => q.2.owner.ctxId)).eraseDups.filter (· != 0xFFFF)).foldl (fun (s : State) c => match first c with
    | some q => linkFault s p c q.2.handle reason q.2.remoteQpn
    | none => s) s1

/-- The rings of every session on a port close; the sessions stay open. -/
def closeRings (s : State) (p : Nat) : State :=
  s.sess.foldl (fun (s : State) x =>
    let hit := x.2.rings.filter (fun r => r.1 == p)
    if hit.isEmpty then s else
    (hit.foldl (fun (s : State) r => endQp s r.1 r.2) s).setSess x.1 { x.2 with rings := x.2.rings.filter (fun r => r.1 != p) }) s

/-- The registers of a port return to At start; the firmware reloads its settings; PMA and PCS stay locked (R473, R477). -/
def portRegs (x : Port) : Port :=
  { Port.init with
    up := x.up, rate := x.rate, start := x.start, role := x.role, lanes := x.lanes, trying := x.trying, failed := x.failed, noRef := x.noRef
    qos := x.qos, dscp := x.dscp, ratectl := x.ratectl, v4 := x.v4, v6 := x.v6, vlan := x.vlan, qps := x.qps, colls := x.colls
    redOn := x.redOn, udp := x.udp, packets := x.packets }

/-- The reset of a port (R477). -/
def resetPort (s : State) (p : Nat) : State :=
  let s1 := closeRings (portErrors (s.delDue (.l1port p)) p 5) p
  let s2 := (s1.port p).colls.foldl (fun (s : State) c => failHop s p c.1) s1
  s2.setPort p (portRegs (s2.port p))

/-- PORT_RESET: it is counted as interrupted by 1 / fitted ports (R516). -/
def execPortReset (p us : Nat) (s : State) : Res :=
  onPort p s (fun s =>
    if !s.due.contains (.l1port p) || s.fenced (portDie p) then s else
    let s1 := resetPort s p
    addInterrupted s1 (us / s.model.ports))

/-! ### L2 (R479 to R482) -/

/-- The entries of a list that a free value picks. -/
def someOf {α : Type} (s : State) (l : List α) : List α × State :=
  l.foldl (fun (a : List α × State) x => let (f, s1) := a.2.fresh; (if f % 2 = 1 then a.1 ++ [x] else a.1, s1)) ([], s)

/-- The lines of the runs of a store. -/
def linePieces (l : List (Nat × Bytes × List Nat)) : List (Nat × Bytes × List Nat) :=
  l.flatMap (fun r => (pieces r.1 r.2.1.length).map (fun q =>
    (q.1, slice r.2.1 (q.1 - r.1) q.2, if r.2.2.contains (q.1 / 64 - r.1 / 64) then [0] else [])))

/-- What an operation that a reset cuts has already written: any of its lines (R480). -/
def cutWrites (s : State) (k : Nat) (o : TeOp) : State :=
  let c := s.core k
  match o.kind, o.src with
  | .store r i, .walk d base cur =>
    let y := nth .empty (c.ring r).slots i
    let (h, w) := storeShape d y cur
    let (l, s1) := someOf s (linePieces (storeList (c.tile r i) (walkRuns d base cur h w)))
    storeRuns s1 c.cluster o.ctx l none
  | .scatter r i rows add, .gather d _ base _ _ col =>
    let t := c.tile r i
    let (l, s1) := someOf s (linePieces (storeList t (gatherRuns d base col (Nat.min 128 (d.dim0 - 128 * col)) rows)))
    storeRuns s1 c.cluster o.ctx l (if add then some t.fmt else none)
  | .copy l, _ =>
    let (ps, s1) := someOf s (l.flatMap (fun x => (pieces x.2.1 x.2.2).map (fun q => (x.1 + (q.1 - x.2.1), q.1, q.2))))
    ps.foldl (fun (s : State) x =>
      let (bs, bad, s1) := rdVa s c.cluster o.ctx x.1 x.2.2 true
      wrVa s1 c.cluster o.ctx x.2.1 bs bad true) s1
  | .zero l, _ =>
    let (ps, s1) := someOf s (l.flatMap (fun x => pieces x.1 x.2))
    ps.foldl (fun (s : State) q => wrVa s c.cluster o.ctx q.1 (zeros q.2) [] true) s1
  | .late l add, _ =>
    let (ps, s1) := someOf s (linePieces l)
    storeRuns s1 c.cluster o.ctx ps add
  | _, _ => s

/-- Step 2 (R479): of the operations issued, those that `cut` does not name (physical core, number) complete, as far as
they can; the others are aborted. -/
def settleOps (s : State) (p : Nat) (cut : List (Nat × Nat)) : State :=
  (s.partCores p).foldl (fun (s : State) k =>
    (s.core k).hw.ops.foldl (fun (s : State) o =>
      if cut.contains (k % 68, o.id) then cutWrites s k o
      else if !canEnd s o then s
      else
        let c := s.core k
        let s1 := (opRuns c o).foldl (fun (s : State) r =>
          (granVas r.1 r.2).foldl (fun (s : State) v => (xlTouch s c.die c.cluster o.ctx v).2) s) s
        completeOp (s1.onOp k o.id (fun x => { x with waits := none })) k o.id []) s) s

/-- A command of R482 that cannot be repeated was begun and not retired in a unit whose operations were aborted: a TSCATTER with ADD,
a MADD or a TRED of a TE; a MADD of the OPE or the VE whose add waits for a granule. -/
def unrepeatable (s : State) (p ctx : Nat) : Bool :=
  let begun := fun (x : Eng) => x.q.any (fun n => n.st == .begun && opcode n.word == 0x14)
  (s.partCores p).any (fun k =>
    let c := s.core k
    (c.hw.ops.any (fun o => o.ctx == ctx && !o.refused)
      && (c.cx.begun.any (fun t => (t.op == 0xC4 && bit t.word.toNat 86) || t.op == 0xC8) || begun c.cx.te))
      || (s.owed.any (fun w => w.ctx == ctx && w.put == .add) && (begun c.cx.ope || begun c.cx.ve)))

/-- A core after the reset of its partition: its registers at start, its caches empty. -/
def Core.restart (c : Core) : Core :=
  { c with
    cx := .init, ctx := none
    hw := { CoreHw.init with tstore := c.hw.tstore, tbad := c.hw.tbad, nextOp := c.hw.nextOp, issue := c.hw.issue, paceAt := c.hw.paceAt } }

/-- A cluster after the reset: its delay monitor at tap 0, its caches empty; the error counts stay (R18, R292). -/
def Cluster.restart (c : Cluster) : Cluster := { Cluster.init with near := c.near, accesses := c.accesses, copying := c.copying }

/-- Racking operations through channels of clusters first to first + n − 1 are cut (R287, R481), and reissued. -/
def cutRacks (s : State) (d first n : Nat) : State :=
  let s1 := { s with objs := mapAll s.objs (fun i o =>
    if i / 2 ^ 17 = d then cutObj o (fun k => decide (first ≤ k) && decide (k < first + n)) else o) }
  (List.range 16).foldl (fun (s : State) e => rackGo s d e) s1

/-- Step 5: every unit of clusters first to first + n − 1 is reset. -/
def resetUnits (s : State) (d first n : Nat) (cores : List Nat) : State :=
  let s1 := cores.foldl (fun (s : State) k => s.onC k Core.restart) s
  let s2 := (List.range n).foldl (fun (s : State) j => s.setCluster d (first + j) (s.cluster d (first + j)).restart) s1
  restartWins s2 d first n (cores.map (fun k => k % 68))

/-- A core charged with the fault (step 6): the pair's spare takes its place when it is free; else the entry is FAILED.
Answers whether the cluster keeps its cores (R482, R505). -/
def replaceCore (s : State) (d phys : Nat) : Bool × State :=
  let pair := pairOf phys
  if phys % 17 = 16 then
    let s1 := mapSet s ⟨1, d, 2, 3, phys, 0, 0⟩
    match s.maps.find? (fun e => e.kind == 1 && e.die == d && e.st == 1 && pairOf e.unit == pair) with
    | some e => (false, mapSet s1 { e with st := 2, source := 3 })
    | none => (true, s1)
  else if s.spareUsed d pair then (false, mapSet s ⟨1, d, 2, 3, phys, 0, 0⟩)
  else (true, mapSet s ⟨1, d, 1, 3, phys, 0, 0⟩)

/-- A TPUT aborted by the reset is issued again: what of its slot was not acknowledged goes out anew (R480, R489). `old` is
the queue pair's packets by the core and number they had. -/
def reputs (s : State) (p : Nat) (old : List (Nat × TeOp)) : State :=
  old.foldl (fun (s : State) x =>
    match x.2.kind with
    | .put r i q qpn =>
      (match (s.partCores p).findSome? (fun k => ((s.core k).hw.ops.find? (fun o => o.kind == .put r i q qpn && o.seq == x.2.seq)).map (fun o => (k, o.id))), s.qp q qpn with
      | some (k, id), some y =>
        let l := y.unacked.filter (fun z => z.core == x.1 && z.op == x.2.id)
        pushPkts s q qpn (l.map (fun z => { z with core := k, op := id, onWire := false }))
      | _, _ => s)
    | _ => s) s

/-- Slots that a core's saved operations fill, by logical core: those that the reset aborted are saved as FREE (R480). -/
def freeSlots (cores : List Nat) (saved : SMap CoreCtx) : SMap CoreCtx :=
  let hit := saved.flatMap (fun q => q.2.stuck.flatMap (fun o =>
    if o.refused then [] else (o.fillsAt (nth 0 cores q.1)).map (fun x => (cores.findIdx (fun k => k == x.1), x.2.1, x.2.2))))
  saved.map (fun q => (q.1, { q.2 with rings := q.2.rings.zipIdx.map (fun r =>
    hit.foldl (fun (y : Ring) h => if h.1 = q.1 ∧ h.2.1 = r.2 then y.onSlot h.2.2 (fun z => { z with st := .free }) else y) r.1) }))

/-- What a core saved, with its aborted operations as the context's TE issues them again: a slot that was being filled again after a
switch is filled again, and what had come in is lost. `key` gives the core that now serves a member of a multicast. -/
def CoreCtx.reissue (x : CoreCtx) (key : Nat → Nat) : CoreCtx :=
  let again := fun (o : TeOp) => match o.kind with
    | .refill _ _ _ => true | .reindex _ _ _ => true | .reload _ _ _ _ => true | _ => false
  { x with
    refills := x.refills ++ x.stuck.filterMap (fun o => match o.kind with | .refill r i _ => if o.refused then none else some (r, i) | _ => none)
    stuck := (x.stuck.filter (fun o => o.refused || !again o)).map (fun o => { o with
      waits := none, got := []
      kind := match o.kind with | .mcast r cores _ => .mcast r (cores.map (fun c => (key c.1, c.2))) none | kind => kind }) }

/-- Steps 7 and 8 for the resident context: restored when the tests of R482 hold, else aborted. -/
def resume (s : State) (p ctx : Nat) (ok : Bool) (saved : SMap CoreCtx) (bars : List Barrier) (puts : List (Nat × TeOp)) : Bool × State :=
  let s0 := s.delDue (.l0 ctx)
  let drop := fun (s : State) =>
    let s2 := onKeys (endPorts (dropAdds s ctx) ctx) ctx (fun k => { k with wr := false, at_ := false })
    let x := s2.ctx ctx
    setCtxSt (s2.setCtx ctx { x with saved := [], savedBars := [], fp := [], leaseQuiesce := none }) ctx .aborted 1
  if !ok then (false, drop s0)
  else
    let lq := (s0.ctx ctx).leaseQuiesce
    let (st, s1) := switchIn (s0.setCtx ctx { s0.ctx ctx with saved := saved, savedBars := bars, fp := [] }) p ctx false
    if st ≠ stOk then (false, if (s1.ctx ctx).st = .aborted then s1 else drop s1)
    else
      let s2 := reputs (s1.setCtx ctx { s1.ctx ctx with leaseQuiesce := lq }) p puts
      let mode1 := match (s2.part p).sw with | some w => w.mode == 1 | none => false
      let s3 := if mode1 || lq.isSome then askQuiesce s2 p true else s2
      (true, onColls s3 ctx (fun s q i => rejoinColl s q i))

/-- Clusters in partitions of the module. -/
def activeClusters (s : State) : Nat := (s.parts.map (fun p => if p.2.st = .fenced then 0 else p.2.clusters)).sum

/-- A partition without 8 working cores in every cluster leaves the layout (R505). -/
def dropPart (s : State) (p : Nat) : State := refit { s with parts := del s.parts p }

/-- Array and bond repairs that wait come in while the clusters of a reset retrain (R500): lanes that the training finds bad, rows
and columns of arrays, and the cores that R82 takes out of use; each is APPLIED while its group has a spare, else FAILED. -/
def retrain (s : State) (d first n : Nat) (lanes : List Lane) : State :=
  let within := fun (k : Nat) => decide (first ≤ k) && decide (k < first + n)
  let es := trained (lanes.filter (fun l => l.bond && l.die == d && within l.unit)) s.maps
  let mine := fun (e : MapEntry) => e.die == d && e.st == 0
    && ((e.kind == 6 && within e.unit) || ((e.kind == 2 || e.kind == 3) && (s.choose d first n).contains e.unit))
  let s1 := (es.filter mine).foldl (fun (s : State) e =>
    mapSet s { e with st := if (s.maps.filter (fun x => x.group == e.group && x.st == 1)).length < e.spares then 1 else 2 }) s
  (badArrays (s1.maps.filter (fun e => e.die == d))).foldl mapSet s1

/-- Cores that the records of a reset's causes charge (R470, R479 step 6). -/
def chargedCores (fs : List Fault64) : List Nat :=
  (fs.filter (fun f => f.cls == 4 && f.a % 256 == 32 && decide (1 ≤ f.unit) && decide (f.unit ≤ 5))).map Fault64.index |>.eraseDups

/-- The sample's number, and RESUMED, in the records of a reset's causes (R471, R482). -/
def markCauses (s : State) (fs : List Fault64) (num : Option Nat) (flag : Nat) : State :=
  flagCauses s fs (fun f =>
    let f1 := match num with | some m => { f.flag flSample with sample := m } | none => f
    f1.flag flag)

/-- SEQ of the first record of a cause; all ones where a recovery has none. -/
def causeSeq (fs : List Fault64) : Nat := ((fs.head?).map Fault64.seq).getD 0xFFFFFFFF

/-- The L2 of a partition (R479): `us` is its length; `env` names the operations that step 2 aborts, and the bond lanes that
retraining finds bad. DESIGN CHOICE: collective contexts of the partition's other contexts, whose members a RESET_NOTICE has held,
send REJOIN too (log 82). -/
def resetPart (s : State) (p us : Nat) (env : ResetEnv) : State :=
  let d := p / 8
  let first := p % 8
  let fs := s.causesOf (.l2 d first)
  let s0 := match s.trellis.applying with
    | some (d', f, n, _) => if (affected s d' f n).contains p then abandonApply s else s
    | none => s
  let n := (s0.part p).clusters
  let s3 := settleOps (s0.setPart p { s0.part p with st := .inClearing }) p env.cut
  let (num, s4) := takeSample s3 p (causeSeq fs)
  let cores := s4.partCores p
  let res := (s4.part p).resident
  let live : Bool := match res with | some c => (s4.ctx c).st == .resident | none => false
  let risky := match res with | some c => unrepeatable s4 p c | none => false
  let charged := match res with | some c => s4.due.contains (.l0 c) | none => false
  let puts := cores.flatMap (fun k => ((s4.core k).hw.ops.filter (fun o => canEnd s4 o)).map (fun o => (k, o)))
  let (kept, ok, s5) := if live then
      cores.foldl (fun (a : SMap CoreCtx × Bool × State) k =>
        let r := saveCore a.2.2 k (res.getD 0)
        (put a.1 (r.2.2.core k).lcore r.1, a.2.1 && r.2.1, r.2.2)) (([] : SMap CoreCtx), true, s4)
    else ([], true, s4)
  let saved := freeSlots cores kept
  let bars := (s5.part p).barriers
  let s6 := match res with | some c => detach s5 p c | none => s5
  let s7 := retrain (cutRacks (resetUnits s6 d first n cores) d first n) d first n env.lanes
  let (whole, s8) := (chargedCores fs).foldl (fun (a : Bool × State) c =>
    let r := replaceCore a.2 d c
    (a.1 && r.1, r.2)) (true, s7)
  let s9 := applySpares s8 p
  let now := s9.choose d first n
  let s10 := s9.setPart p { s9.part p with st := .inService, phys := now }
  let key := fun (k : Nat) => if cores.contains k then 68 * d + nth 0 now (cores.findIdx (fun x => x == k)) else k
  let (back, s11) := match res with
    | some c => if live then resume s10 p c (ok && !risky && !charged && whole) (mapAll saved (fun _ x => x.reissue key)) bars puts
      else (false, s10)
    | none => (false, s10)
  let z := s11.part p
  let s12 := s11.setPart p { z with
    resets := hold 16 z.resets 1, aborted := hold 8 z.aborted (b2n (live && !back)), resumed := hold 8 z.resumed (b2n back)
    lastReset := Nat.min us (2 ^ 20 - 1), lastResetAt := some (s11.die d).time, count := 0, last := 0, drain := 0, timeouts := 0, applies := 0
    sw := match z.sw with
      | some w => if w.ctx.isNone ∧ z.resident.isNone then none else some w
      | none => none }
  let s13 := markCauses s12 fs num (if back then flResumed else 0)
  let s14 := onPartColls s13 p (fun s q i => rejoinColl s q i) (fun c x => some c != res && x.st != CtxSt.aborted)
  let s15 := restartPart (flipTeardowns s14 p) p
  if whole then s15 else dropPart s15 p

/-- PARTITION_RESET, when it is called for: of a partition, or of a cluster that lies in none (R470). -/
def execPartitionReset (d first us : Nat) (env : ResetEnv) (s : State) : Res :=
  onUnit d first 8 s (fun s =>
    let p := 8 * d + first
    if !s.due.contains (.l2 d first) || s.fenced d || !roleUp s d 0 then s else
    let part := s.hasPart p
    let n := if part then (s.part p).clusters else 1
    let s1 := if part then resetPart s p us env
      else retrain (cutRacks (resetUnits s d first 1 ((s.choose d first 1).map (fun x => 68 * d + x))) d first 1) d first 1 env.lanes
    let s2 := s1.delDue (.l2 d first)
    flushHeld (addInterrupted s2 (us * n / Nat.max 1 (activeClusters s))))

/-! ### L3 (R483, R484) -/

/-- A report that another die's CC-M2 takes, for a unit of a die that is gone. -/
def reportAt (s : State) (q : Nat) (f : Fault64) : State :=
  let x := s.die q
  if x.reports.length < 256 then s.setDie q { x with reports := x.reports ++ [{ f with time := x.time }] }
  else s.setDie q { x with repDropped := hold 16 x.repDropped 1 }

/-- The dies that the boot die reaches through dies that are not fenced. -/
def reached (s : State) (boot : Nat) : Nat → List Nat → List Nat
  | 0, l => l
  | n + 1, l => reached s boot n (l ++ ((l.flatMap (fun d => [0, 1, 2].filterMap (linkDie s.model.dies d))).eraseDups.filter (fun e =>
      decide (e < s.model.dies) && !s.fenced e && !l.contains e)))

/-- Whether a die lies within n links of another, through dies that are not fenced. -/
def within (s : State) (dst : Nat) : Nat → Nat → Bool
  | 0, d => d == dst
  | n + 1, d => d == dst || [0, 1, 2].any (fun l => match linkDie s.model.dies d l with
      | some e => !s.fenced e && within s dst n e
      | none => false)

/-- Canopy routes are rewritten around fenced dies (R483 step 4): an entry that no longer gets to its destination takes the
lowest link of a shortest way. -/
def reroute (s : State) : State :=
  let rs := s.trellis.routes.filter (fun r => !s.fenced r.1 && !s.fenced r.2.2.1)
  let broken := fun (r : Nat × Nat × Nat × Nat) => match followRoute rs s.model.dies r.2.1 r.2.2.1 s.model.dies r.1 with
    | some l => l.any (fun d => s.fenced d)
    | none => true
  let way := fun (d dst : Nat) =>
    (List.range 9).findSome? (fun n => ([0, 1, 2].find? (fun l => match linkDie s.model.dies d l with
      | some e => !s.fenced e && within s dst n e
      | none => false)))
  { s with trellis := { s.trellis with routes := rs.map (fun r =>
    if broken r then (r.1, r.2.1, r.2.2.1, (way r.1 r.2.2.1).getD r.2.2.2) else r) } }

/-- The port of a fenced die (R484): contexts on other dies receive LINK records, and their TEs with a TPUT outstanding on it stop
(R214); queue pairs and collective contexts end. -/
def losePort (s : State) (p : Nat) (dead : List Nat) : State :=
  let x := s.port p
  let far := fun (c : Nat) => c != 0xFFFF && !dead.contains (c / 1024)
  let link := fun (s : State) (c h a b : Nat) => reportAt s (c / 1024)
    { Fault64.blank with ctx := c, cls := 7, die := portDie p, unit := 12, index := p, whereAt := h, a := a, b := b }
  let s0 := x.qps.foldl (fun (s : State) q => if q.2.live then haltPuts s p (q.2.num q.1) else s) s
  let s1 := x.qps.foldl (fun (s : State) q => if q.2.live && far q.2.owner.ctxId then link s q.2.owner.ctxId q.2.handle 3 q.2.remoteQpn else s) s0
  let s2 := x.colls.foldl (fun (s : State) c => if c.2.st != .closed && far c.2.ctx then link s c.2.ctx c.2.handle 4 c.2.next else s) s1
  let s3 := closeRings s2 p
  { s3 with ports := del s3.ports p }

/-- What requests under way name a fenced die (R484): CTX_DESTROY, UNMAP and FREE complete with OK, the others with
NOT_FOUND. -/
def endNamed (s : State) (dead : List Nat) : State :=
  let objs := (s.objs.filter (fun p => dead.contains (p.1 / 2 ^ 17))).flatMap (fun p => p.2.finish ++ p.2.queue.filterMap RackReq.uid)
  let names := fun (t : Taken) => objs.contains t.uid || (targets t).any (fun x => match x.1 with
    | 1 => dead.contains (x.2 / 2 ^ 17)
    | 2 => dead.contains (x.2 / 1024)
    | 3 => dead.contains (x.2 / 8)
    | _ => false)
  (s.taken.filter (fun t => t.running && names t)).foldl (fun (s : State) t =>
    complete s t.uid (if t.code = 0x0205 ∨ t.code = 0x0104 ∨ t.code = 0x0102 then stOk else stNotFound) []) s

/-- Boot duties move when the boot die is fenced: its sessions, rings and leases end, their contexts as after expiry. -/
def moveBoot (s : State) : State :=
  let ok := fun (d : Nat) => d % 2 == 0 && decide (d / 2 < s.model.ports) && roleUp s d 3 && !(s.port (d / 2)).failed
  match s.dieList.find? ok with
  | none => { s with fw := { s.fw with elected := false, inService := false } }
  | some b =>
    let s1 := { s with fw := { s.fw with bootDie := b }, dump := { Dump.init with size := s.dump.size, die := b } }
    s1.sess.foldl (fun (s : State) x => if x.2.role = 2 then endBoot s x.1 else expireSess s x.1) s1

/-- Fence dies (R483, R484): rails off, everything they hold is lost. -/
def fenceDies (s : State) (dead : List Nat) : State :=
  let on := fun (d : Nat) => dead.contains d
  let stays := fun (r : Due) => match r with
    | .l0 c => !on (c / 1024) | .l1port p => !on (portDie p) | .l1rack d _ => !on d | .l2 d _ => !on d | .l3 d => !on d | .l4 _ => true
  let s0 := match s.trellis.applying with
    | some (d, _, _, _) => if on d then abandonApply s else s
    | none => s
  let s1 := endNamed s0 dead
  let s2 := { s1 with
    power := { s1.power with fenced := (s1.power.fenced ++ dead).eraseDups, pgood := decide (7 ≤ s1.power.step) && s1.dieList.all (fun d => s1.fenced d || on d || !(s1.die d).railBad) }
    dies := mapAll s1.dies (fun d x => if on d then { x with railsOn := false, dramOn := false, far := [], farAcc := [], hang := [] } else x)
    cores := s1.cores.filter (fun c => !on (c.1 / 68)), clusters := s1.clusters.filter (fun c => !on (c.1 / 8))
    racks := s1.racks.filter (fun c => !on (c.1 / 16))
    parts := mapAll s1.parts (fun p y => if on (p / 8) then { y with st := .fenced, resident := none, sw := none, forced := false, phys := [], barriers := Part.init.barriers, spareDue := none } else y)
    objs := mapAll s1.objs (fun i o => if on (i / 2 ^ 17) then { o with queue := [], work := none, todo := [], live := [], took := [], finish := [] } else o)
    ctxs := mapAll s1.ctxs (fun _ c => { c with pins := c.pins.filter (fun q => !on (q.1 / 2 ^ 17)) })
    mem := keepMem s1.mem (fun d => !on d), bad := s1.bad.filter (fun c => !on (bits (c.1 * 64) 44 42))
    latent := s1.latent.filter (fun c => !on (bits (c.1 * 64) 44 42))
    due := s1.due.filter stays, causes := s1.causes.filter (fun x => stays x.1) }
  let s3 := (keysWhere s2.ctxs (fun i c => on (i / 1024) && c.st != .free)).foldl (fun (s : State) c =>
    let s1 := onKeys (endPorts s c) c (fun k => { k with live := false })
    setCtxSt (s1.setCtx c { s1.ctx c with saved := [], savedBars := [], uid := none, leaseQuiesce := none, fp := [] }) c .aborted 1) s2
  let s4 := (List.range s3.model.ports).foldl (fun (s : State) p => if on (portDie p) then losePort s p dead else s) s3
  let s5 := if on s4.fw.bootDie then moveBoot s4 else s4
  reroute (alert s5 alFence)

/-- DIE_FENCE, when an L3 is called for: a die that the boot die can no longer reach is fenced with it. `us` is its length,
which counts as interrupted (R516). -/
def execDieFence (d us : Nat) (s : State) : Res :=
  onDie d s (fun s =>
    if !s.due.contains (.l3 d) || s.fenced d then s else
    let fs := s.causesOf (.l3 d)
    let (num, s1) := if d = s.fw.bootDie then (none, s) else sampleAll s (causeSeq fs)
    let was := s1.fw.bootDie
    let s2 := fenceDies s1 [d]
    let b := s2.fw.bootDie
    let lost := s2.dieList.filter (fun e => !s2.fenced e && !(reached s2 b 8 [b]).contains e)
    let s3 := if lost.isEmpty then s2 else fenceDies s2 lost
    let (got, s4) := if d = was then (false, s3) else captureDump s3 3 (((fs.head?).map Fault64.bytes).getD [])
    addInterrupted (markCauses s4 fs num (if got then flDump else 0)) us)

/-! ### L4 and missed bounds (R474, R485) -/

/-- MODULE_RESET, when an L4 is called for: a dump first unless the reset was requested, then as RESET_N held low for 10 µs.
Its interruption runs until the next service (R516). -/
def execModuleReset (env : StartEnv) (s : State) : Res :=
  .next (
    let asked := s.due.contains (.l4 false)
    let decided := s.due.contains (.l4 true)
    if (!asked && !decided) || !s.power.standby then s else
    let fs := s.causesOf (.l4 true)
    let s1 := if !decided then s else
      let (num, t) := sampleAll s (causeSeq fs)
      let (got, u) := captureDump t 4 (((fs.head?).map Fault64.bytes).getD [])
      markCauses u fs num (if got then flDump else 0)
    let now := bootTime s
    let s2 := powerDown s1 (decide (7 ≤ s1.power.step))
    let s3 := if decided then { s2 with power := { s2.power with downAt := some (s2.power.downAt.getD now) } } else s2
    if s3.power.resetN ∧ mayStart s3 env then powerUp s3 env else s3)

/-- A missed bound takes the next level (R474). The records of its causes set ESCALATED (R463). DESIGN CHOICE: the record of higher
severity that then follows for the same cause is the record again, with the new SEVERITY, its own number and time, and neither
flags nor sample; it is the cause of what is called for (log 82). -/
def missed (s : State) (r : Due) (next : Due) : State :=
  let fs := s.causesOf r
  let s1 := flagCauses s fs (·.flag flEscalated)
  let (sev, s2) := callFor s1 (some next) 0
  fs.foldl (fun (s : State) f =>
    let (x, s3) := writeRecord s f.die { f with flags := 0, sample := 0xFFFFFFFF, time := (s.die f.die).time } sev
    (s3.due.filter (fun q => q.sev == sev && (!s1.due.contains q || q == next))).foldl (fun (s : State) q => s.addCause q x) s3) s2

/-- Whether an L4 waits, or runs: the module leaves reset, and no boot die is elected. -/
def l4Open (s : State) : Bool :=
  s.due.contains (.l4 true) || s.due.contains (.l4 false)
    || (s.power.resetN && decide (5 ≤ s.power.step) && !s.power.tripLow && !s.power.guardHeld && !s.fw.elected)

/-- RECOVERY_BOUND_MISSED: the next level is taken (R474). `u` names what the level acts on: a context (level 0), a port or
racking engine (1), a die and first cluster (2), a die (3). -/
def execRecoveryBoundMissed (level : Nat) (u : UnitRef) (s : State) : Res :=
  .next (match level with
    | 0 =>
      let p := (s.ctx u.index).part
      if !s.due.contains (.l0 u.index) || !s.hasPart p then s else missed s (.l0 u.index) (.l2 (p / 8) (p % 8))
    | 1 =>
      if u.kind = 12 then
        if !s.due.contains (.l1port u.index) then s else
        let s1 := resetPort s u.index
        let s2 := s1.setPort u.index { s1.port u.index with failed := true, up := false, lanes := 0, trying := false }
        mapSet s2 ⟨10, portDie u.index, 2, 3, u.index, 0, 0⟩
      else if !s.due.contains (.l1rack u.die u.index) then s
      else (missed s (.l1rack u.die u.index) (.l3 u.die)).delDue (.l1rack u.die u.index)
    | 2 => if !s.due.contains (.l2 u.die u.index) then s else missed s (.l2 u.die u.index) (.l3 u.die)
    | 3 => if !s.due.contains (.l3 u.die) then s else (missed s (.l3 u.die) (.l4 true)).delDue (.l3 u.die)
    | _ =>
      if l4Open s && s.power.standby && !s.power.afterL5 && !s.power.pwrReq then
        let s1 := alert s alPwr
        { s1 with power := { s1.power with pwrReq := true } }
      else s)

/-! ### Teardown escalation (R321) -/

/-- Racking engines that hold operations of a context. -/
def rackUse (s : State) (ctx : Nat) : List (Nat × Nat) :=
  ((s.objs.filter (fun p => decide (0 < p.2.opsFor ctx))).map (fun p => (p.1 / 2 ^ 17, p.2.engine))).eraseDups

/-- Ports that hold operations of a context: packets of its queue pairs not acknowledged, collective packets that a pause
holds, inbound requests not finished. -/
def portUse (s : State) (ctx : Nat) : List Nat :=
  (List.range s.model.ports).filter (fun p => let x := s.port p
    x.holdsFor ctx || decide (0 < x.inbound ctx) || x.qps.any (fun q => q.2.owner == .ctx ctx && q.2.live && !q.2.unacked.isEmpty))

/-- TEARDOWN_ESCALATE (R321): 200 µs after CLOSING with operations left, every TE, racking engine and port that holds one is
reset. A TE drops the context's operations (log 60); a racking engine reissues its own (R478). Where that leaves some, the
partition is reset, and TEARDOWN_COMPLETE ends the teardown after it; else the teardown ends here, with ESCALATED. -/
def execTeardownEscalate (ctx : Nat) (s : State) : Res :=
  .next (match look s.ctxs ctx with
    | none => s
    | some x =>
      if x.st ≠ .closing ∨ x.escalated ∨ x.evicted ∨ s.fenced (ctx / 1024) ∨ underL2 s ctx ∨ outstanding s ctx = 0
          ∨ (s.die (ctx / 1024)).time < x.closedAt + 5000 then s else
      let s1 := { s with
        cores := mapAll s.cores (fun _ c => { c with
          hw := { c.hw with ops := c.hw.ops.filter (fun o => o.ctx != ctx) }, cx := { c.cx with stuck := c.cx.stuck.filter (fun o => o.ctx != ctx) } })
        ctxs := put s.ctxs ctx { x with saved := mapAll x.saved (fun _ c => { c with stuck := [] }) }
        owed := s.owed.filter (fun w => w.ctx != ctx) }
      let s2 := (rackUse s ctx).foldl (fun (s : State) e => resetRack s e.1 e.2) s1
      let s3 := (portUse s ctx).foldl (fun (s : State) p => resetPort s p) s2
      let s4 := s3.setCtx ctx { s3.ctx ctx with escalated := true }
      if 0 < outstanding s4 ctx ∧ s4.hasPart x.part then (callL2 s4 (x.part / 8) (x.part % 8)).2
      else endTeardown s4 ctx stEscalated)

end Sys2Proof.Machine
end

