-- ==== Sys2Proof/Machine/Pace.lean ====
section
/-! DEFINITION. Pace, VCORE, the ramp controller and cover-crop beats (chapter 02). -/

set_option autoImplicit false

namespace Sys2Proof.Machine

/-- The logical cores whose physical core lies in a cluster's partition, with their contexts: those resident on it. -/
def State.residentsOf (s : State) (d k : Nat) : List Nat :=
  match s.partAt d k with
  | some p => match (s.part p).resident with | some c => [c] | none => []
  | none => []

/-- The active core of a cluster with the lowest pace (R502). -/
def slowest (s : State) (d k : Nat) : Nat :=
  let l := (List.range 8).map (fun i => s.physOf d k i)
  l.foldl (fun (m : Nat) p => if (s.core (68 * d + p)).hw.regs.paceRate < (s.core (68 * d + m)).hw.regs.paceRate then p else m)
    (nth 0 l 0)

/-- The delay monitor compares its replica, with the margin in percent (R55, R56). Below 10 % it moves one tap up, or at
tap 7 halts the cluster and raises SUPPLY; above 25 % for 2^20 beats, 256 comparisons, it moves one tap down. -/
def execDelayMonitorCheck (d k margin : Nat) (s : State) : Res :=
  onUnit d k 8 s (fun s =>
    let x := s.cluster d k
    if x.halted then s else
    if margin < 10 then
      if x.tap < 7 then s.setCluster d k { x with tap := x.tap + 1, above := 0 }
      else
        let s1 := s.setCluster d k { x with halted := true, above := 0 }
        let mv := 600 + 5 * (s1.die d).actual
        let f := { Fault64.blank with cls := 10, sev := 3, die := d, unit := 8, index := k, whereAt := k, a := 1, b := mv }
        let s2 := match s1.residentsOf d k with
          | [] => report s1 f
          | cs => cs.foldl (fun s c => report s { f with ctx := c }) s1
        let s3 := alert s2 alSupply
        let s4 := s3.setDie d { s3.die d with tapAt := (s3.die d).tapAt ++ [(s3.die d).time] }
        rateHit s4 d 12 k 0 0 2 (slowest s4 d k)
    else if 25 < margin then
      if 256 ≤ x.above + 1 then s.setCluster d k { x with tap := x.tap - 1, above := 0 }
      else s.setCluster d k { x with above := x.above + 1 }
    else s.setCluster d k { x with above := 0 })

/-- R57, R75: 4,096 periods of the cellar timer after VCORE came up or the last interval ended, the loops of the interval
become the pace. -/
def execPaceIntervalEnd (c : CoreId) (loops : BitVec 20) (s : State) : Res :=
  onCore c s (fun k s =>
    let x := s.die c.die
    if !x.railsOn || decide (x.time < Nat.max x.railsAt (s.core k).hw.paceAt + 4096) then s else
    s.onC k (fun y => { y with hw := { y.hw with
      paceAt := x.time, regs := { y.hw.regs with paceValid := true, paceRate := loops.toNat } } }))

/-- R54: the set point takes effect while the engines run. -/
def execVcoreSet (d : Nat) (code : BitVec 8) (s : State) : Res :=
  onDie d s (fun s => setVcore s d code.toNat)

/-- R77: the regulator has reached SET. -/
def execVcoreSlewDone (d : Nat) (s : State) : Res :=
  onDie d s (fun s => s.setDie d { s.die d with actual := (s.die d).set, busy := false })

/-- The power caps on a die: its own, the module's, the guard's (R70, R71, R300): a rise is withheld above the lowest. -/
def overCap (s : State) (d amps : Nat) : Bool :=
  let x := s.die d
  let w := amps * (600 + 5 * x.actual) / 1000
  let mw := s.power.mv * s.power.amps / 10000
  let guard := if s.power.throttle then s.model.maxPower * s.power.cap / 100 else s.model.maxPower
  (match x.capW with | some c => decide (c < w) | none => false)
    || decide ((match s.trellis.modCap with | some c => Nat.min c guard | none => guard) < mw)

/-- The change of a die's current since its last update (R68). -/
def moved (a b : Nat) : Nat := if a ≤ b then b - a else a - b

/-- One update of the ramp controller (R64, R68, R69): the estimated and measured currents reached after `us`
microseconds; `parts` gives the rise of each partition that ramps up, `up` the direction of the step. The update is taken
when the larger current keeps the up rate while it rises and the down rate while it falls, 700 A and the caps, the
measured current keeps 50 A/µs, and each partition's rise keeps its share of the up rate; ADMIT moves one step. -/
def execRampUpdate (d : Nat) (up : Bool) (est meas us : Nat) (parts : List (Nat × Nat)) (s : State) : Res :=
  onDie d s (fun s =>
    let x := s.die d
    let new := Nat.max est meas
    let old := Nat.max x.est x.meas
    let rate := if old < new then Nat.min 50 x.upRate else Nat.min 50 x.downRate
    let total := (parts.map (fun p => (s.part (8 * d + p.1)).clusters)).sum
    let fair := parts.all (fun p => decide (p.2 * total ≤ Nat.min 50 x.upRate * us * (s.part (8 * d + p.1)).clusters))
    if moved old new ≤ rate * us ∧ moved x.meas meas ≤ 50 * us ∧ new ≤ 700 ∧ fair
        ∧ !((up || decide (old < new)) && overCap s d new) then
      let a := if up then Nat.min (Nat.min 64 x.admitCap) (x.adm + 1) else x.adm - 1
      s.setDie d { x with est := est, meas := meas, adm := a }
    else s)

/-- The longest cover window of a core (R66). -/
def coverMax (c : Core) : Nat := Nat.min 2500 c.hw.regs.maxBeats

/-- R65 to R67: an array in its cover window, or ramping down, takes a beat that writes nothing but COVER_BEATS. -/
def execCoverCropBeat (c : CoreId) (a : Nat) (s : State) : Res :=
  onCore c s (fun k s =>
    let x := s.core k
    let put1 := fun (v : CoverSt × Nat) => s.onC k (fun x => { x with hw := { x.hw with
      cover := modNth x.hw.cover a (fun _ => v), beats := modNth x.hw.beats a (fun b => (b.1 + 1, b.2)), regs := { x.hw.regs with coverBeats := x.hw.regs.coverBeats + 1 } } })
    match x.hw.cover[a]? with
    | some (.work, _) => if 0 < coverMax x then put1 (.cover, 1) else s
    | some (.cover, n) => if n < coverMax x then put1 (.cover, n + 1) else s
    | some (.ramp, n) => put1 (.ramp, n + 1)
    | _ => s)

/-- R67: the window has ended and the ramp controller takes over the array; when it has thinned the beats to none the
array is idle. -/
def execCoverWindowEnd (c : CoreId) (a : Nat) (s : State) : Res :=
  onCore c s (fun k s =>
    let x := s.core k
    let set1 := fun (v : CoverSt × Nat) => s.onC k (fun x => { x with hw := { x.hw with
      cover := modNth x.hw.cover a (fun _ => v), beats := modNth x.hw.beats a (fun b => (b.1, b.2 + 1)) } })
    match x.hw.cover[a]? with
    | some (.work, _) => if coverMax x = 0 then set1 (.ramp, 0) else s
    | some (.cover, n) => if coverMax x ≤ n then set1 (.ramp, n) else s
    | some (.ramp, _) => set1 (.idle, 0)
    | _ => s)

end Sys2Proof.Machine
end

