-- ==== Sys2Proof/Machine/Coppice.lean ====
section
/-! DEFINITION. The orderly shutdown and its self-test (R512 to R515), the hourly ERRORS entries (R520), the I3C target
(R523 to R525). -/

set_option autoImplicit false

namespace Sys2Proof.Machine

/-! ### Event log, shutdown (R512 to R515, R520) -/

/-- ERRORS_LOG_HOURLY: an entry for each unit of a die with errors in the window: a map entry, then the count. That of a delay monitor
names the core that it would replace (R502; log 52). -/
def execErrorsLogHourly (d : Nat) (s : State) : Res :=
  onDie d s (fun s =>
    if !roleUp s d 2 then s else
    let x := s.die d
    x.rates.foldl (fun (s : State) r =>
      let n := (r.times.filter (fun t => decide (x.time < t + day))).length
      if n = 0 then s else
      logEntry s 6 d ((⟨r.kind, d, 0, 1, if r.kind = 12 then slowest s d r.unit else r.unit, r.sub, r.whereAt⟩ : MapEntry).bytes ++ natLe 4 n)) s)

/-- Every session ends at a shutdown (R512, R513). -/
def endSessions (s : State) : State :=
  s.sess.foldl (fun (s : State) x => if x.2.role = 2 then endBoot s x.1 else releaseSess s x.1) s

/-- A failed self-test (R515): a PENDING entry with SOURCE 2, unless the repair has one, and a SELFTEST entry. -/
def selfFail (s : State) (f : TestFail) : State :=
  let e : MapEntry := ⟨f.kind, f.die, 0, 2, f.unit, f.sub, f.whereAt⟩
  let s1 := if s.maps.any (fun x => x.same e) then s else mapSet s e
  logEntry s1 3 f.die (e.bytes ++ natLe 4 f.bit)

/-- ORDERLY_SHUTDOWN: sessions closed, tests run, results and cursors written, ALERT_N low, power-down (R513); the rails
stay off until RESET_N falls (log 38). -/
def execOrderlyShutdown (fails : List TestFail) (notRun : Nat) (s : State) : Res :=
  .next (if !s.fw.stopping then s else
    let s1 := fails.foldl selfFail (endSessions s)
    let s2 := { s1 with cursors := (s1.dieList.filter (fun d => !s1.fenced d)).foldl (fun (m : SMap Nat) d => put m d ((get 0 m d + 1) % 16)) s1.cursors }
    let s3 := drainMap { s2 with power := { s2.power with mapDue := true } }
    let s4 := logEntry s3 5 s3.fw.bootDie (availBytes s3)
    let s5 := { s4 with i3c := { s4.i3c with testFails := Nat.min 0xFF fails.length, testNotRun := Nat.min 0xFF notRun, testDone := true } }
    let s6 := powerDown (alert s5 alTest) false
    { s6 with power := { s6.power with abrupt := false, step := 0 } })

/-! ### The I3C target (R523 to R525) -/

/-- Whole degrees of a junction sensor's quarter degrees, of a board sensor's half degrees. -/
def deg (v : Int) (per : Int) : Bytes := natLe 1 ((v / per) % 256).toNat

/-- The highest reading of a die's working junction sensors. -/
def hottest (s : State) (d : Nat) : Int :=
  ((List.range 8).filter (sensorOk s d)).foldl (fun (m : Int) n => if m < get 0 (s.die d).sensors n then get 0 (s.die d).sensors n else m)
    (get 0 (s.die d).sensors (((List.range 8).find? (sensorOk s d)).getD 0))

/-- The register set of the target, offsets 0x00 to 0x27 (R524). -/
def i3cRegs (s : State) : Bytes :=
  let w := s.power
  natLe 2 (pack [(0, s.model.code), (4, 0xB)])
    ++ natLe 2 (pack [(0, b2n w.pgood), (1, b2n s.fw.inService), (2, b2n w.tripLow), (3, b2n w.pwrReq), (4, b2n w.scan), (8, (w.fenced.map (2 ^ ·)).sum)])
    ++ natLe 4 s.i3c.alert ++ natLe 2 (w.mv / 50) ++ natLe 2 w.amps ++ natLe 2 (w.mv * w.amps / 10000) ++ zeros 2
    ++ (List.range 8).flatMap (fun d => deg (hottest s d) 4) ++ (List.range 4).flatMap (fun i => deg (get 0 (s.die s.fw.bootDie).sensors (16 + i)) 2) ++ zeros 4
    ++ natLe 4 (pack [(0, s.i3c.testFails), (8, s.i3c.testNotRun), (16, b2n s.i3c.testDone)]) ++ natLe 4 (s.mapGen % 2 ^ 32)

/-- The target answers while the standby rails carry it. -/
def onI3c (s : State) (f : State → State) : Res := .next (if s.power.standby then f s else s)

def State.i3cSet (s : State) (f : I3c → I3c) : State := { s with i3c := f s.i3c }

/-- ENTDAA gives a target without a dynamic address one. -/
def execEntdaa (addr : BitVec 7) (s : State) : Res :=
  onI3c s (fun s => if s.i3c.dyn.isSome then s else s.i3cSet (fun x => { x with dyn := some addr.toNat }))

/-- SETDASA names the static address (R40). -/
def execSetdasa (static addr : BitVec 7) (s : State) : Res :=
  onI3c s (fun s => if s.i3c.dyn.isSome ∨ s.i3c.static ≠ some static.toNat then s else s.i3cSet (fun x => { x with dyn := some addr.toNat }))

def execSetnewda (addr : BitVec 7) (s : State) : Res :=
  onI3c s (fun s => if s.i3c.dyn.isNone then s else s.i3cSet (fun x => { x with dyn := some addr.toNat }))

def execRstdaa (s : State) : Res := onI3c s (fun s => s.i3cSet (fun x => { x with dyn := none }))

/-- A directed GET reaches the target at its dynamic address. -/
def i3cGet (s : State) (bs : Bytes) : Res := onI3c s (fun s => if s.i3c.dyn.isNone then s else s.emit (.i3c bs))

/-- Most significant byte first, as MIPI I3C sends them (log 15). -/
def execGetpid (s : State) : Res := i3cGet s (natLe 6 Config.i3cPid.toNat).reverse
def execGetbcr (s : State) : Res := i3cGet s [Config.i3cBcr]
def execGetdcr (s : State) : Res := i3cGet s [Config.i3cDcr]

/-- R523 names GETSTATUS and gives no content: two bytes of a free value (log 15). -/
def execGetstatus (s : State) : Res :=
  onI3c s (fun s => if s.i3c.dyn.isNone then s else let (v, s1) := s.fresh; s1.emit (.i3c (natLe 2 v)))

def execEnec (s : State) : Res := onI3c s (fun s => s.i3cSet (fun x => { x with ibi := true }))
def execDisec (s : State) : Res := onI3c s (fun s => s.i3cSet (fun x => { x with ibi := false }))

/-- A private write sets the register offset. -/
def execI3cOffsetWrite (off : BitVec 8) (s : State) : Res := onI3c s (fun s => s.i3cSet (fun x => { x with off := off.toNat }))

/-- A read of ALERT_STATUS, with the offset on it: it returns the latched bits and clears them; `late` are the events
latched during the read, which stay set; ALERT_N is released when no bit remains (R42, R524). -/
def execAlertStatusRead (late : BitVec 8) (s : State) : Res :=
  onI3c s (fun s =>
    if s.i3c.off ≠ 4 then s else
    let s1 := (s.emit (.i3c (natLe 4 s.i3c.alert))).i3cSet (fun x => { x with alert := 0, off := 8 })
    let s2 := { s1 with power := { s1.power with alertLow := false } }
    (List.range 8).foldl (fun (s : State) b => if bit late.toNat b then alert s b else s) s2)

/-- COMMAND 0x5A (R512): every context is aborted, every session ends, an orderly shutdown begins. -/
def execI3cShutdown (s : State) : Res :=
  onI3c s (fun s =>
    if !s.fw.inService then s else
    let cs := keysWhere s.ctxs (fun i c => c.st != .free && c.st != .aborted && c.st != .closing && !s.fenced (i / 1024))
    let s1 := endSessions (cs.foldl (fun (s : State) c => abortCtx (s.delDue (.l0 c)) c 1) s)
    { s1 with fw := { s1.fw with stopping := true } })

/-- COMMAND 0xA5: an L4 is requested; it is no failure, so no dump precedes it (R492, R524). -/
def execI3cRequestL4 (s : State) : Res := onI3c s (fun s => s.addDue (.l4 false))

end Sys2Proof.Machine
end

