-- ==== Sys2Proof/Machine/Power.lean ====
section
/-! DEFINITION. Power, pins, sensors, supply guard and JTAG (chapters 01 and 02, R517). -/

set_option autoImplicit false

namespace Sys2Proof.Machine

/-- R28, R31 steps 1 to 3: the input reaches the module, or comes back (log 38); above 38 V the standby rails are live
(R26). `slot` is the level of SLOT_ID, which step 3 takes and which nothing reads later (R40). A supply Reset ends by its
own row (R71). -/
def execInput48vApplied (slot : BitVec 3) (mv : Nat) (s : State) : Res :=
  let s0 := { s with power := { s.power with slotPins := slot.toNat } }
  .next (if s0.power.standby then s0 else
    let s1 := { s0 with power := { s0.power with applied := true, mv := mv, step := 1 } }
    if 38000 < mv then standbyUp s1 else { s1 with power := { s1.power with guardHeld := true } })

/-- RESET_N has been low for 10 µs since the trip: a long low seen, or a low that has lasted so long since its fall and since
the trip (R43). -/
def sawLow (s : State) : Bool :=
  s.power.tripSawReset || (!s.power.resetN && decide (Nat.max s.power.lowAt s.power.tripAt + 250 ≤ (s.die 0).time))

/-- A latched trip ends when RESET_N has been low for 10 µs and every die sensor reads below 95 °C (R43); with a power-cycle
request both pins stay low (R44). -/
def tripEnd (s : State) : State :=
  if s.power.tripLow && sawLow s && s.dieList.all (fun d => allBelow s d 95) && !s.power.pwrReq then
    { s with power := { s.power with tripLow := false, tripSawReset := false } } else s

/-- RESET_N goes high, or step 4 of power-up finds it high (R31; log 38): power-up runs; scan hold ends with the rails off
and power-up resumes at step 5 (R49). -/
def execResetNRise (env : StartEnv) (s : State) : Res :=
  if s.power.resetN && (s.power.pgood || s.power.step != 4) then .next s else
  let s1 := if s.power.scan then powerDown s false else s
  let s2 := tripEnd { s1 with power := { s1.power with resetN := true, tripSawReset := sawLow s1 && s1.power.tripLow } }
  .next (if mayStart s2 env then powerUp s2 env else s2)

/-- RESET_N goes low (R33): below 1 µs it is ignored, from 1 to 10 µs a free value decides, at least 10 µs is taken:
a module reset while running, else an end of the power-up under way. DESIGN CHOICE: a fall before step 7 that follows a
module reset drops the DRAM rails that the reset kept (log 38). -/
def execResetNFall (pulse : LowPulse) (s : State) : Res :=
  if !s.power.resetN then .next s else
  let (taken, s0) := match pulse with
    | .long => (true, s)
    | .short => (false, s)
    | .between => (decide (s.fresh.1 % 2 = 1), s.fresh.2)
  if !taken then .next s0 else
  let s1 := { s0 with power := { s0.power with resetN := false, lowAt := (s0.die 0).time, tripSawReset := s0.power.tripSawReset || (s0.power.tripLow && decide (pulse = .long)) } }
  .next (if !s1.power.standby then s1 else tripEnd (powerDown s1 (decide (7 ≤ s1.power.step))))

/-- A rail of an unfenced die leaves tolerance: PGOOD low (R41), a SUPPLY record that calls for L3 (R465, R474), an
alert (R42). -/
def execRailOutOfTolerance (d row mv : Nat) (s : State) : Res :=
  onDie d s (fun s =>
    if s.fenced d || !(s.die d).railsOn then s else
    let s1 := report (({ s with power := { s.power with pgood := false } } : State).setDie d { s.die d with railBad := true })
      { Fault64.blank with cls := 10, sev := 4, die := d, unit := 15, index := row, whereAt := row, a := 2, b := mv }
    callL3 (logEntry (alert s1 alSupply) 4 d (natLe 8 row ++ natLe 8 mv)) d)

/-- A thermal trip (R43): THERM_TRIP_N low and latched, every die rail off, DRAM rails included. -/
def trip (s : State) (d n : Nat) (celsius : Int) : State :=
  let s1 := report s { Fault64.blank with
    cls := 11, sev := 0, die := d, unit := 17, index := n, whereAt := n, a := celsius.toNat, b := 1 }
  let s2 := powerDown (alert s1 alTherm) false
  { s2 with power := { s2.power with tripLow := true, tripSawReset := false, tripAt := (s2.die 0).time } }

/-- A sensor is read (R517): the reading is kept; a working junction sensor above 115 °C or the coolant outlet above
75 °C trips (R43); from 100 °C the die is throttled, and below 95 °C its cooling time runs (R70). -/
def execSensorRead (d sensor : Nat) (value amps : Int) (s : State) : Res :=
  onDie d s (fun s =>
    if !s.power.standby || 20 ≤ sensor || (15 ≤ sensor && d != s.fw.bootDie) then s else
    let x := s.die d
    let s1 := tripEnd (s.setDie d { x with sensors := put x.sensors sensor value, amps := put x.amps sensor amps })
    if sensor < 8 then
      if !sensorOk s1 d sensor then s1 else
      if 115 * 4 < value then (if s1.power.tripLow then s1 else trip s1 d sensor (value / 4)) else
      let y := s1.die d
      let hot := anyAt s1 d 100
      let cool := allBelow s1 d 95
      s1.setDie d { y with
        throttled := y.throttled || hot
        coolSince := if cool then some (y.coolSince.getD y.time) else none }
    else if sensor = 15 then
      { s1 with power := { s1.power with
        mv := value.toNat * 50, amps := amps.toNat, minSeen := Nat.min s1.power.minSeen value.toNat } }
    else if 16 ≤ sensor ∧ sensor = Config.outletSensor ∧ s.model ≠ .krk2 ∧ 75 * 2 < value ∧ !s1.power.tripLow then
      trip s1 d sensor (value / 2)
    else s1)

/-- One step of the throttle (R70), at most one a millisecond: 10 mV down to VCORE_MIN, then 1/64 of admission down to
8/64; after 10 ms below 95 °C one step back, the admission fraction first, and VCORE to no more than its lowest cap. The
first step raises THERMAL. -/
def execThermalThrottleStep (d : Nat) (s : State) : Res :=
  onDie d s (fun s =>
    let x := s.die d
    if (match x.lastThr with | some t => decide (x.time < t + 25000) | none => false) then s else
    if anyAt s d 100 then
      let first := x.thrV == 0 && x.thrA == 0
      let hot := ((List.range 8).find? (fun n => sensorOk s d n && decide (400 ≤ get 0 x.sensors n))).getD 0
      let s1 := if first then
          alert (report s { Fault64.blank with
            cls := 11, die := d, unit := 17, index := hot, whereAt := hot, a := (get 0 x.sensors hot / 4).toNat }) alTherm
        else s
      let y := s1.die d
      let y1 := { y with throttled := true, lastThr := some y.time }
      if y.vmin < y.set then
        let v := Nat.max y.vmin (y.set - 2)
        s1.setDie d { y1 with set := v, busy := decide (v ≠ y.actual), thrV := y.thrV + (y.set - v) }
      else if 8 < y.admitCap then
        s1.setDie d { y1 with admitCap := y.admitCap - 1, adm := Nat.min y.adm (y.admitCap - 1), thrA := y.thrA + 1 }
      else s1.setDie d y1
    else if allBelow s d 95 && (match x.coolSince with | some t => decide (t + 250000 ≤ x.time) | none => false) then
      if 0 < x.thrA then s.setDie d { x with admitCap := x.admitCap + 1, thrA := x.thrA - 1, lastThr := some x.time }
      else if 0 < x.thrV then
        let n := Nat.min 2 x.thrV
        let v := Nat.min (x.set + n) (vcoreTop s d)
        s.setDie d { x with
          set := v, busy := decide (v ≠ x.actual), thrV := x.thrV - n, lastThr := some x.time,
          throttled := decide (n < x.thrV) }
      else s.setDie d { x with throttled := false }
    else s)

/-- A supply-guard event for the record and the log (R71, R73, R520). -/
def supplyEvent (s : State) (reason mv : Nat) : State :=
  let b := s.fw.bootDie
  logEntry (alert (report s { Fault64.blank with cls := 10, die := b, unit := 16, a := reason, b := mv }) alSupply) 4 b
    (natLe 8 reason ++ natLe 8 mv)

/-- The ADC's reading (R78). -/
def adc (s : State) (mv : Nat) : State :=
  { s with power := { s.power with mv := mv, minSeen := Nat.min s.power.minSeen (mv / 50) } }

/-- R71, R72: NOR writes and fuse programming stop; log entries wait. DESIGN CHOICE: R78 gives the counts HOLDS, THROTTLES,
RESETS and LOG_DROPPED no wrap and no hold; each stays at 0xFFFF (log 68). The row stands for the end of the filter or
release time, which the comparators count (R75; log 69). -/
def execSupplyHoldEnter (mv : Nat) (s : State) : Res :=
  if !s.power.standby || 42000 ≤ mv then .next s else
  let s1 := adc s mv
  .next (if s1.power.hold then s1 else
    { s1 with power := { s1.power with hold := true, holds := hold 16 s1.power.holds 1 } })

/-- R72: the waiting entries go to NOR in order; the map entries and the identity record that waited are written (R510). -/
def execSupplyHoldRelease (mv : Nat) (s : State) : Res :=
  if !s.power.standby || mv ≤ 43000 then .next s else
  let s1 := adc s mv
  .next (if !s1.power.hold then s1 else
    let s2 := { s1 with power := { s1.power with hold := false } }
    syncResets (drainMap (drainLog (drainId s2))))

/-- R71, R73: the power cap, a SUPPLY event, ALERT_N low. THROTTLES holds at 0xFFFF (log 68). -/
def execSupplyThrottleEnter (mv : Nat) (s : State) : Res :=
  if !s.power.standby || 40500 ≤ mv then .next s else
  let s1 := adc s mv
  .next (if s1.power.throttle then s1 else
    supplyEvent { s1 with power := { s1.power with throttle := true, throttles := hold 16 s1.power.throttles 1 } } 3 mv)

def execSupplyThrottleRelease (mv : Nat) (s : State) : Res :=
  if !s.power.standby || mv ≤ 41500 then .next s else
  let s1 := adc s mv
  .next { s1 with power := { s1.power with throttle := false } }

/-- R71, R74: the module is held in reset with every die rail off; near and far memory and the dump region are lost;
the entry is counted, to 0xFFFF (log 68). Below 38 V the standby rails fall (R26). -/
def execSupplyResetEnter (mv : Nat) (s : State) : Res :=
  if !s.power.standby || 38000 ≤ mv then .next s else
  let s1 := adc s mv
  .next (standbyDown { s1 with power := { s1.power with resets := hold 16 s1.power.resets (b2n (!s1.power.guardHeld)) } })

/-- R74: above 40 V for 10 ms the supply Reset ends and the module begins again at step 1; its standby rails are up since
the input passed 38 V, or rise now (R26). -/
def execSupplyResetRelease (mv : Nat) (s : State) : Res :=
  if !s.power.applied || !s.power.guardHeld || mv ≤ 40000 then .next s else
  let s1 := { s with power := { s.power with mv := mv, guardHeld := false } }
  .next (if s1.power.standby then s1 else standbyUp s1)

def execSupplyOverEnter (mv : Nat) (s : State) : Res :=
  if !s.power.standby || mv ≤ 62000 then .next s else
  let s1 := adc s mv
  .next (if s1.power.overV then s1 else supplyEvent { s1 with power := { s1.power with overV := true } } 4 mv)

def execSupplyOverRelease (mv : Nat) (s : State) : Res :=
  if !s.power.standby || 61000 ≤ mv then .next s else
  let s1 := adc s mv
  .next { s1 with power := { s1.power with overV := false } }

/-- R78: any value written sets V48_MIN to 0xFFF. -/
def execV48MinReset (_value : BitVec 32) (s : State) : Res :=
  .next { s with power := { s.power with minSeen := 0xFFF } }

/-- R44: once per minute the boot die tries an unreachable NOR again; a failure alerts again. What waited is written, and SAMPLE_CURSOR
is read where the start could not. -/
def execNorRetry (ok : Bool) (s : State) : Res :=
  let now := (s.die s.fw.bootDie).time
  if s.nor.ok || !s.fw.elected || decide (now < s.nor.lastTry + 1500000000) then .next s else
  .next (if ok then
      let s1 := { s with
        nor := { s.nor.reread with ok := true, lastTry := now }
        cursors := if s.cursors.isEmpty then (List.range s.nor.copy.cursors.length).zip s.nor.copy.cursors else s.cursors }
      drainMap (drainLog (drainId (syncResets s1)))
    else alert { s with nor := { s.nor with lastTry := now } } alNor)

/-- R49: COMMAND 0x3C with RESET_N low and the standby rails up raises the die rails, unless a die is too hot after a trip
(R44); no engine is released. -/
def execScanHoldEnter (railFail : List (Nat × Nat)) (s : State) : Res :=
  if s.power.resetN || !s.power.standby || s.power.tripLow || s.power.guardHeld || s.power.scan || tooHot s then .next s else
  let s1 := raiseRails s railFail
  .next { s1 with power := { s1.power with scan := true } }

/-! ### JTAG (R47 to R49) -/

/-- Change a die's TAP; the standby rails carry it. -/
def onTap (s : State) (d : Nat) (f : Tap → Tap) : State :=
  if s.power.standby then s.setDie d { s.die d with tap := f (s.die d).tap } else s

/-- IDCODE of stepping B, least significant bit first (R48). -/
def idcode : List Bool := (List.range 32).map (fun i => Nat.testBit 0x2A7C19E7 i)

/-- Whether a TAP's instruction selects the boundary register. -/
def Tap.boundary (t : Tap) : Bool :=
  match t.ir with
  | .bypass | .idcode => false
  | .sample | .extest | .extestPulse | .extestTrain => true

/-- The data register that a TAP's instruction puts between its TDI and TDO: what it captured. -/
def Tap.scanned (t : Tap) : List Bool :=
  match t.ir with
  | .bypass => [false]
  | .idcode => idcode
  | _ => t.dr

/-- A data scan captures the pins in the boundary register of a die whose instruction selects it (R47). Where the row does
not give them (`given` is the die of which it does) they are free bits; the register's length is the implementation's
(log 70). -/
def capturePins (given : Option Nat) (s : State) (d : Nat) : State :=
  if !(s.die d).tap.boundary ∨ given = some d then s else
  let (v, s1) := s.fresh
  onTap s1 d (fun t => { t with dr := (List.range Config.boundaryCells).map (Nat.testBit v) })

/-- A data scan of the chain TDI, D0, the further dies in ascending order, TDO (R47): the register of the die nearest TDO
leaves first. -/
def scanChain (given : Option Nat) (s0 : State) : State :=
  if !s0.power.standby then s0 else
  let s := s0.dieList.foldl (capturePins given) s0
  s.emit (.tdo (s.dieList.reverse.flatMap (fun d => (s.die d).tap.scanned)))

/-- Whether a die takes part in a scan (R49). -/
def inScan (s : State) (d : Nat) : Bool := s.power.scan && !s.fenced d

/-- A row of one die's TAP: the instruction goes into that die's register, the others keep theirs, and one data scan of the
chain follows (log 70). -/
def tapRow (d : Nat) (s : State) (given : Option Nat) (f : Tap → Tap) : Res := onDie d s (fun s => scanChain given (onTap s d f))

def execTapBypass (d : Nat) (s : State) : Res := tapRow d s none Tap.bypass

def execTapIdcode (d : Nat) (s : State) : Res :=
  tapRow d s none (fun t => { t with ir := .idcode, dr := idcode, driven := false })

/-- SAMPLE/PRELOAD captures the pins and loads the boundary cells; the pins are not driven. -/
def execTapSamplePreload (d : Nat) (pins preload : List Bool) (s : State) : Res :=
  tapRow d s (some d) (fun t => { t with ir := .sample, dr := pins, cells := preload, driven := false })

/-- EXTEST drives the pins from the cells in scan hold, and is BYPASS otherwise (R49). -/
def execTapExtest (d : Nat) (s : State) : Res :=
  tapRow d s none (fun t => if inScan s d then { t with ir := .extest, driven := true } else t.bypass)

def execTapExtestPulse (d : Nat) (s : State) : Res :=
  tapRow d s none (fun t => if inScan s d then { t with ir := .extestPulse, driven := true } else t.bypass)

/-- R47 names EXTEST_TRAIN; R49 does not hold it to scan hold. -/
def execTapExtestTrain (d : Nat) (s : State) : Res :=
  tapRow d s none (fun t => { t with ir := .extestTrain, driven := true })

/-- TRST_N low resets every die's TAP (R38); IEEE 1149.1 then selects IDCODE (log 6). -/
def execJtagReset (s : State) : Res :=
  .next (s.dieList.foldl (fun s d => onTap s d (fun t => { t with ir := .idcode, dr := [], driven := false })) s)

end Sys2Proof.Machine
end

