-- ==== Sys2Proof/Machine/Dispatch.lean ====
section
/-! DEFINITION. One arm for each command: what it does to everything but the queue. -/

namespace Sys2Proof.Machine

def exec (i : Instr) (s : State) : Host.Outcome State Fault Refusal :=
  match i with
  | .input48vApplied slot mv => Sys2Proof.Machine.execInput48vApplied slot mv s
  | .resetNRise env => Sys2Proof.Machine.execResetNRise env s
  | .resetNFall pulse => Sys2Proof.Machine.execResetNFall pulse s
  | .railOutOfTolerance d row mv => Sys2Proof.Machine.execRailOutOfTolerance d row mv s
  | .sensorRead d sensor value amps => Sys2Proof.Machine.execSensorRead d sensor value amps s
  | .thermalThrottleStep d => Sys2Proof.Machine.execThermalThrottleStep d s
  | .supplyHoldEnter mv => Sys2Proof.Machine.execSupplyHoldEnter mv s
  | .supplyHoldRelease mv => Sys2Proof.Machine.execSupplyHoldRelease mv s
  | .supplyThrottleEnter mv => Sys2Proof.Machine.execSupplyThrottleEnter mv s
  | .supplyThrottleRelease mv => Sys2Proof.Machine.execSupplyThrottleRelease mv s
  | .supplyResetEnter mv => Sys2Proof.Machine.execSupplyResetEnter mv s
  | .supplyResetRelease mv => Sys2Proof.Machine.execSupplyResetRelease mv s
  | .supplyOverEnter mv => Sys2Proof.Machine.execSupplyOverEnter mv s
  | .supplyOverRelease mv => Sys2Proof.Machine.execSupplyOverRelease mv s
  | .v48MinReset value => Sys2Proof.Machine.execV48MinReset value s
  | .norRetry ok => Sys2Proof.Machine.execNorRetry ok s
  | .scanHoldEnter railFail => Sys2Proof.Machine.execScanHoldEnter railFail s
  | .tapBypass d => Sys2Proof.Machine.execTapBypass d s
  | .tapIdcode d => Sys2Proof.Machine.execTapIdcode d s
  | .tapSamplePreload d pins preload => Sys2Proof.Machine.execTapSamplePreload d pins preload s
  | .tapExtest d => Sys2Proof.Machine.execTapExtest d s
  | .tapExtestPulse d => Sys2Proof.Machine.execTapExtestPulse d s
  | .tapExtestTrain d => Sys2Proof.Machine.execTapExtestTrain d s
  | .delayMonitorCheck d k margin => Sys2Proof.Machine.execDelayMonitorCheck d k margin s
  | .paceIntervalEnd c loops => Sys2Proof.Machine.execPaceIntervalEnd c loops s
  | .vcoreSet d code => Sys2Proof.Machine.execVcoreSet d code s
  | .vcoreSlewDone d => Sys2Proof.Machine.execVcoreSlewDone d s
  | .rampUpdate d up est meas us parts => Sys2Proof.Machine.execRampUpdate d up est meas us parts s
  | .coverCropBeat c a => Sys2Proof.Machine.execCoverCropBeat c a s
  | .coverWindowEnd c a => Sys2Proof.Machine.execCoverWindowEnd c a s
  | .ccDispatch c => Sys2Proof.Machine.execCcDispatch c s
  | .ccProducerPoll c => Sys2Proof.Machine.execCcProducerPoll c s
  | .nop c => Sys2Proof.Machine.execNop c s
  | .loop c => Sys2Proof.Machine.execLoop c s
  | .setlc c => Sys2Proof.Machine.execSetlc c s
  | .addlc c => Sys2Proof.Machine.execAddlc c s
  | .cmpset c => Sys2Proof.Machine.execCmpset c s
  | .skip c => Sys2Proof.Machine.execSkip c s
  | .markStep c => Sys2Proof.Machine.execMarkStep c s
  | .markKeep c => Sys2Proof.Machine.execMarkKeep c s
  | .dsync c => Sys2Proof.Machine.execDsync c s
  | .signal c e => Sys2Proof.Machine.execSignal c e s
  | .fence c e => Sys2Proof.Machine.execFence c e s
  | .wait c e => Sys2Proof.Machine.execWait c e s
  | .waitmem c e => Sys2Proof.Machine.execWaitmem c e s
  | .waitPoll c e => Sys2Proof.Machine.execWaitPoll c e s
  | .waitmemReadReturn c e flaws => Sys2Proof.Machine.execWaitmemReadReturn c e flaws s
  | .waitTimeout c e late => Sys2Proof.Machine.execWaitTimeout c e late s
  | .counterXlateFill c e => Sys2Proof.Machine.execCounterXlateFill c e s
  | .madd c e flaws => Sys2Proof.Machine.execMadd c e flaws s
  | .barrier c e => Sys2Proof.Machine.execBarrier c e s
  | .stallSample d first => Sys2Proof.Machine.execStallSample d first s
  | .syncHoldRelease c mask => Sys2Proof.Machine.execSyncHoldRelease c mask s
  | .opload c => Sys2Proof.Machine.execOpload c s
  | .oploadLanded c a flaws => Sys2Proof.Machine.execOploadLanded c a flaws s
  | .opswap c => Sys2Proof.Machine.execOpswap c s
  | .oprun c => Sys2Proof.Machine.execOprun c s
  | .beat c flaws => Sys2Proof.Machine.execBeat c flaws s
  | .partialSumLanded c a => Sys2Proof.Machine.execPartialSumLanded c a s
  | .accread c => Sys2Proof.Machine.execAccread c s
  | .vpad c => Sys2Proof.Machine.execVpad c s
  | .vcvt c flaws => Sys2Proof.Machine.execVcvt c flaws s
  | .quant c flaws => Sys2Proof.Machine.execQuant c flaws s
  | .vbin c flaws => Sys2Proof.Machine.execVbin c flaws s
  | .vfma c flaws => Sys2Proof.Machine.execVfma c flaws s
  | .vscale c flaws => Sys2Proof.Machine.execVscale c flaws s
  | .vact c flaws => Sys2Proof.Machine.execVact c flaws s
  | .vdact c flaws => Sys2Proof.Machine.execVdact c flaws s
  | .vred c flaws => Sys2Proof.Machine.execVred c flaws s
  | .vsoftmax c flaws => Sys2Proof.Machine.execVsoftmax c flaws s
  | .vsmback c flaws => Sys2Proof.Machine.execVsmback c flaws s
  | .vlse c flaws => Sys2Proof.Machine.execVlse c flaws s
  | .vnorm c flaws => Sys2Proof.Machine.execVnorm c flaws s
  | .adamq c flaws => Sys2Proof.Machine.execAdamq c flaws s
  | .veCheckHit c line => Sys2Proof.Machine.execVeCheckHit c line s
  | .reArm c => Sys2Proof.Machine.execReArm c s
  | .tfill c => Sys2Proof.Machine.execTfill c s
  | .tdrain c => Sys2Proof.Machine.execTdrain c s
  | .tgather c => Sys2Proof.Machine.execTgather c s
  | .tscatter c => Sys2Proof.Machine.execTscatter c s
  | .tcopy c => Sys2Proof.Machine.execTcopy c s
  | .tzero c => Sys2Proof.Machine.execTzero c s
  | .tput c flaws => Sys2Proof.Machine.execTput c flaws s
  | .tred c => Sys2Proof.Machine.execTred c s
  | .teOpComplete c op flaws => Sys2Proof.Machine.execTeOpComplete c op flaws s
  | .xlateMissFill d k => Sys2Proof.Machine.execXlateMissFill d k s
  | .rackOpDone d e obj granule flaws => Sys2Proof.Machine.execRackOpDone d e obj granule flaws s
  | .patrolScrub d chan flaw => Sys2Proof.Machine.execPatrolScrub d chan flaw s
  | .memErrorsClear d far index => Sys2Proof.Machine.execMemErrorsClear d far index s
  | .rackReset d e => Sys2Proof.Machine.execRackReset d e s
  | .spareBankCopyDone d k bank => Sys2Proof.Machine.execSpareBankCopyDone d k bank s
  | .create n => Sys2Proof.Machine.execCreate n s
  | .free n => Sys2Proof.Machine.execFree n s
  | .map n => Sys2Proof.Machine.execMap n s
  | .unmap n => Sys2Proof.Machine.execUnmap n s
  | .promote n => Sys2Proof.Machine.execPromote n s
  | .evict n => Sys2Proof.Machine.execEvict n s
  | .flush n => Sys2Proof.Machine.execFlush n s
  | .query n => Sys2Proof.Machine.execQuery n s
  | .trellisApply n => Sys2Proof.Machine.execTrellisApply n s
  | .applyQuiesceTimeout => Sys2Proof.Machine.execApplyQuiesceTimeout s
  | .ctxCreate n => Sys2Proof.Machine.execCtxCreate n s
  | .ctxSchedule n => Sys2Proof.Machine.execCtxSchedule n s
  | .ctxSet n => Sys2Proof.Machine.execCtxSet n s
  | .ctxQuery n => Sys2Proof.Machine.execCtxQuery n s
  | .ctxDestroy n => Sys2Proof.Machine.execCtxDestroy n s
  | .ctxAbort n => Sys2Proof.Machine.execCtxAbort n s
  | .ctxReclaim n => Sys2Proof.Machine.execCtxReclaim n s
  | .queueRelease n => Sys2Proof.Machine.execQueueRelease n s
  | .contextSwitch d first last drain => Sys2Proof.Machine.execContextSwitch d first last drain s
  | .quiesceFallback ctx => Sys2Proof.Machine.execQuiesceFallback ctx s
  | .teardownComplete ctx => Sys2Proof.Machine.execTeardownComplete ctx s
  | .teardownEscalate ctx => Sys2Proof.Machine.execTeardownEscalate ctx s
  | .portRateAttempt p => Sys2Proof.Machine.execPortRateAttempt p s
  | .portLock p lanes => Sys2Proof.Machine.execPortLock p lanes s
  | .portLockLoss p => Sys2Proof.Machine.execPortLockLoss p s
  | .arpReceived p sender target => Sys2Proof.Machine.execArpReceived p sender target s
  | .ndReceived p sender target => Sys2Proof.Machine.execNdReceived p sender target s
  | .icmpEcho p sender dest k => Sys2Proof.Machine.execIcmpEcho p sender dest k s
  | .frameDropped p fr => Sys2Proof.Machine.execFrameDropped p fr s
  | .pfcReceived p prio quanta => Sys2Proof.Machine.execPfcReceived p prio quanta s
  | .pfcRefresh p prio => Sys2Proof.Machine.execPfcRefresh p prio s
  | .pfcPauseLong p prio => Sys2Proof.Machine.execPfcPauseLong p prio s
  | .roceInboundWrite p pkt flaws => Sys2Proof.Machine.execRoceInboundWrite p pkt flaws s
  | .roceInboundRead p pkt flaws => Sys2Proof.Machine.execRoceInboundRead p pkt flaws s
  | .roceInboundFetchAdd p pkt flaws => Sys2Proof.Machine.execRoceInboundFetchAdd p pkt flaws s
  | .roceAckReceived p qpn a => Sys2Proof.Machine.execRoceAckReceived p qpn a s
  | .roceNakReceived p qpn a kind => Sys2Proof.Machine.execRoceNakReceived p qpn a kind s
  | .roceCnpReceived p qpn k => Sys2Proof.Machine.execRoceCnpReceived p qpn k s
  | .qpRateIncrease p qpn => Sys2Proof.Machine.execQpRateIncrease p qpn s
  | .qpAckTimeout p qpn => Sys2Proof.Machine.execQpAckTimeout p qpn s
  | .qpCreate n => Sys2Proof.Machine.execQpCreate n s
  | .qpDestroy n => Sys2Proof.Machine.execQpDestroy n s
  | .keyCreate n => Sys2Proof.Machine.execKeyCreate n s
  | .keyDestroy n => Sys2Proof.Machine.execKeyDestroy n s
  | .portConfig n => Sys2Proof.Machine.execPortConfig n s
  | .hostHello m => Sys2Proof.Machine.execHostHello m s
  | .hostProof m => Sys2Proof.Machine.execHostProof m s
  | .sessionProofTimeout src => Sys2Proof.Machine.execSessionProofTimeout src s
  | .close m => Sys2Proof.Machine.execClose m s
  | .proofLockEnd => Sys2Proof.Machine.execProofLockEnd s
  | .bootSessionIdle => Sys2Proof.Machine.execBootSessionIdle s
  | .attest m => Sys2Proof.Machine.execAttest m s
  | .ownerAdd m => Sys2Proof.Machine.execOwnerAdd m s
  | .ownerRemove m => Sys2Proof.Machine.execOwnerRemove m s
  | .policySet m => Sys2Proof.Machine.execPolicySet m s
  | .passwordSet m => Sys2Proof.Machine.execPasswordSet m s
  | .ownerRelease m => Sys2Proof.Machine.execOwnerRelease m s
  | .bootAddress m => Sys2Proof.Machine.execBootAddress m s
  | .macsecOn m => Sys2Proof.Machine.execMacsecOn m s
  | .bootConnect m => Sys2Proof.Machine.execBootConnect m s
  | .bootGo m => Sys2Proof.Machine.execBootGo m s
  | .ringsOpen m => Sys2Proof.Machine.execRingsOpen m s
  | .resetModule m => Sys2Proof.Machine.execResetModule m s
  | .dumpOpen m => Sys2Proof.Machine.execDumpOpen m s
  | .dumpRelease m => Sys2Proof.Machine.execDumpRelease m s
  | .dumpSize m => Sys2Proof.Machine.execDumpSize m s
  | .shutdown m => Sys2Proof.Machine.execShutdown m s
  | .orderlyShutdown fails notRun => Sys2Proof.Machine.execOrderlyShutdown fails notRun s
  | .collCreate n => Sys2Proof.Machine.execCollCreate n s
  | .collDestroy n => Sys2Proof.Machine.execCollDestroy n s
  | .collQuery n => Sys2Proof.Machine.execCollQuery n s
  | .collScaleReceived p k => Sys2Proof.Machine.execCollScaleReceived p k s
  | .collDataReceived p k => Sys2Proof.Machine.execCollDataReceived p k s
  | .collAckReceived p k us => Sys2Proof.Machine.execCollAckReceived p k us s
  | .collNotReadyReceived p k => Sys2Proof.Machine.execCollNotReadyReceived p k s
  | .collResettingReceived p k => Sys2Proof.Machine.execCollResettingReceived p k s
  | .resetNotice p k => Sys2Proof.Machine.execResetNotice p k s
  | .rejoin p k => Sys2Proof.Machine.execRejoin p k s
  | .closed p k => Sys2Proof.Machine.execClosed p k s
  | .collResend p coll => Sys2Proof.Machine.execCollResend p coll s
  | .collControlResend p coll => Sys2Proof.Machine.execCollControlResend p coll s
  | .hopFailed p coll => Sys2Proof.Machine.execHopFailed p coll s
  | .roundTimeout p coll bucket => Sys2Proof.Machine.execRoundTimeout p coll bucket s
  | .roundComplete p coll bucket => Sys2Proof.Machine.execRoundComplete p coll bucket s
  | .doorbellSubmission sess => Sys2Proof.Machine.execDoorbellSubmission sess s
  | .doorbellCompletion sess => Sys2Proof.Machine.execDoorbellCompletion sess s
  | .doorbellEvent sess => Sys2Proof.Machine.execDoorbellEvent sess s
  | .submissionTake sess => Sys2Proof.Machine.execSubmissionTake sess s
  | .nudge sess p => Sys2Proof.Machine.execNudge sess p s
  | .argsAttach n => Sys2Proof.Machine.execArgsAttach n s
  | .leaseSet n => Sys2Proof.Machine.execLeaseSet n s
  | .fwUpdate n expired => Sys2Proof.Machine.execFwUpdate n expired s
  | .unload n => Sys2Proof.Machine.execUnload n s
  | .telemetry n => Sys2Proof.Machine.execTelemetry n s
  | .leaseTouch sess => Sys2Proof.Machine.execLeaseTouch sess s
  | .leaseExpiry sess => Sys2Proof.Machine.execLeaseExpiry sess s
  | .reclaimWindowEnd rec => Sys2Proof.Machine.execReclaimWindowEnd rec s
  | .watchdogKick d n => Sys2Proof.Machine.execWatchdogKick d n s
  | .fwWdog d n imageOk copyOk => Sys2Proof.Machine.execFwWdog d n imageOk copyOk s
  | .faultReport d => Sys2Proof.Machine.execFaultReport d s
  | .hangSample u => Sys2Proof.Machine.execHangSample u s
  | .contextAbort ctx => Sys2Proof.Machine.execContextAbort ctx s
  | .portReset p us => Sys2Proof.Machine.execPortReset p us s
  | .partitionReset d first us env => Sys2Proof.Machine.execPartitionReset d first us env s
  | .dieFence d us => Sys2Proof.Machine.execDieFence d us s
  | .moduleReset env => Sys2Proof.Machine.execModuleReset env s
  | .recoveryBoundMissed level u => Sys2Proof.Machine.execRecoveryBoundMissed level u s
  | .spareForcedSwitch d first => Sys2Proof.Machine.execSpareForcedSwitch d first s
  | .errorsLogHourly d => Sys2Proof.Machine.execErrorsLogHourly d s
  | .entdaa addr => Sys2Proof.Machine.execEntdaa addr s
  | .setdasa static addr => Sys2Proof.Machine.execSetdasa static addr s
  | .setnewda addr => Sys2Proof.Machine.execSetnewda addr s
  | .rstdaa => Sys2Proof.Machine.execRstdaa s
  | .getpid => Sys2Proof.Machine.execGetpid s
  | .getbcr => Sys2Proof.Machine.execGetbcr s
  | .getdcr => Sys2Proof.Machine.execGetdcr s
  | .getstatus => Sys2Proof.Machine.execGetstatus s
  | .enec => Sys2Proof.Machine.execEnec s
  | .disec => Sys2Proof.Machine.execDisec s
  | .i3cOffsetWrite off => Sys2Proof.Machine.execI3cOffsetWrite off s
  | .alertStatusRead late => Sys2Proof.Machine.execAlertStatusRead late s
  | .i3cShutdown => Sys2Proof.Machine.execI3cShutdown s
  | .i3cRequestL4 => Sys2Proof.Machine.execI3cRequestL4 s
  | .registerWrite r value => Sys2Proof.Machine.execRegisterWrite r value s
  | .roceInboundUnsupported p pkt op => Sys2Proof.Machine.execRoceInboundUnsupported p pkt op s
  | .qpRnrRetry p qpn => Sys2Proof.Machine.execQpRnrRetry p qpn s
  | .pfcPauseExpiry p prio => Sys2Proof.Machine.execPfcPauseExpiry p prio s
  | .collLinkRateIncrease p coll => Sys2Proof.Machine.execCollLinkRateIncrease p coll s
  | .jtagReset => Sys2Proof.Machine.execJtagReset s
  | .unknownSessionRequest m => Sys2Proof.Machine.execUnknownSessionRequest m s

end Sys2Proof.Machine
end

