-- ==== Sys2Proof/Safety.lean ====
section
/-! DEFINITION. The terms of the statements: a meaning that answers a next state, the canonical form of the memory, and
the conditions under which a row finds its work. -/

set_option autoImplicit false

namespace Sys2Proof.Machine

/-- The canonical form of the physical memory (log 4). -/
def State.memOk (s : State) : Prop := Mem.wf s.mem = true

/-- A meaning answers a next state, and that state has a property. -/
def Ends (r : Res) (P : State → Prop) : Prop := ∃ t, r = .next t ∧ P t

/-- A core that the fitted model carries (R5, R90). -/
def fittedCore (s : State) (c : CoreId) : Prop := c.die < s.model.dies ∧ c.phys < 68

/-- Memory of a die stays through a loss of its core-side rails: the die is not fenced and its DRAM rails are up (R27, R33). -/
def keepsDram (s : State) (a : Nat) : Bool :=
  !s.power.fenced.contains (bits a 44 42) && (s.die (bits a 44 42)).dramOn

/-- A core's CC finds a word next (R169, R182): its context is live, the CC is neither stopped nor quiesced, and the word
stands in the loop buffer or, read from the ring, in the state `s1`; it passes the checks of R174. -/
def ccFinds (s : State) (k : Nat) (w : CmdWord) (idx : Nat) (s1 : State) : Prop :=
  (s.liveOn k).isSome = true ∧ (s.core k).cx.cc.stopped = false ∧ (s.core k).cx.cc.quiesced = false
    ∧ (s.core k).cx.cc.boundary = false ∧ nextWord (writeBack s k) k = .word w idx s1 ∧ checkWord w = 0

/-- A row's command has begun on a live core, and its engine has not stopped. -/
def begunOn (s : State) (k : Nat) (e : Engine) (n : QEntry) : Prop :=
  (s.liveOn k).isSome = true ∧ n ∈ ((s.core k).eng e).q ∧ n.st = .begun ∧ ((s.core k).eng e).stopped = false

/-- A change confined to one core. -/
def coreOnly (s t : State) (k : Nat) : Prop := t = { s with cores := t.cores } ∧ ∀ j, j ≠ k → t.core j = s.core j

/-- A queue's commands of a number have completed (R183). -/
def doneSeq (s : State) (k : Nat) (e : Engine) (seq : Nat) : Prop := ∀ m ∈ ((s.core k).eng e).q, m.seq = seq → m.st = .done

/-- Every byte of memory outside n bytes from a is as it was. -/
def memKept (s t : State) (a n : Nat) : Prop := ∀ b, b < a ∨ a + n ≤ b → Mem.byte t.mem b = Mem.byte s.mem b

/-- The rows of the VE that write output slots, by opcode (R180). -/
def veRows : List (Nat × (CoreId → Flaws → Instr)) :=
  [(0x81, .vcvt), (0x82, .quant), (0x83, .vbin), (0x84, .vfma), (0x85, .vscale), (0x86, .vact), (0x87, .vdact), (0x88, .vred),
   (0x89, .vsoftmax), (0x8A, .vsmback), (0x8B, .vlse), (0x8C, .vnorm), (0x8D, .adamq)]

/-- The tiles of the next n slots of a ring. -/
def nextTiles (c : Core) (r n : Nat) : List Tile := (((c.ring r).readyN n).getD []).map (c.tile r)

/-- A VE command as its next output slot finds it: the rows of a row block are read with its first slot (R327). -/
def rowsRead (c : Core) (w : CmdWord) (v : VeCmd) : VeCmd :=
  let b := if (veSources w).length = 2 then nextTiles c (wf w 101 97) (veTiles w) else []
  if rowBlock w && v.rows.isEmpty then { v with rows := blockRows w (nextTiles c (wf w 106 102) (veTiles w)) b } else v

/-- What the next output slot of a VE command is computed from, and what it is, when nothing it reads is in doubt. -/
def veOutput (c : Core) (w : CmdWord) (d : Desc) (v : VeCmd) : VeOut :=
  veCompute w d (rowsRead c w v) c.cx.gens ((veSources w).map (fun r => c.tile r (c.ring r).read))
    (match opcode w == 0x8B, (c.ring (wf w 106 102)).ready with | true, some (i, _) => c.stats (wf w 106 102) i | _, _ => [])

/-- A VE command stands begun on a live core, its sources ready and its output slots free. -/
def veReady (s : State) (k op ctx : Nat) (n : QEntry) (v : VeCmd) (d : Desc) : Prop :=
  s.liveOn k = some ctx ∧ (s.core k).cx.veCmd = some v ∧ (s.core k).cx.ve.stopped = false ∧ v.tiles < veTiles n.word
    ∧ (s.core k).cx.ve.q.find? (fun m => m.seq == v.seq && opcode m.word == op) = some n
    ∧ veLate (s.core k) n.word v.rows.isEmpty = [] ∧ ((s.core k).ring (veDst n.word)).tailFree = true
    ∧ ((s.core k).ring (veDst n.word)).desc? = some d

/-- No read of a VE command is in doubt: check mode is on, or no write is under way (R202, R203). -/
def veSettled (c : Core) : Prop := c.cx.check = true ∨ c.hw.writes = []

/-- A begun command of a TE row is the row's turn (R184, R243, R245): no command of the row stands at the head of the queue,
no earlier command of its ring has still to issue, and no fill that a reset
aborted is to be issued again before (R480). -/
def teNext (s : State) (k op ctx : Nat) (t : TeCmd) : Prop :=
  s.liveOn k = some ctx ∧ s.head k .te op = none ∧ (s.core k).cx.te.stopped = false
    ∧ (s.core k).cx.begun.filter (fun u => u.op == op) = [t] ∧ t.issuedAll = false ∧ cutFills (s.core k) t = []
    ∧ firstOn (s.core k).cx.begun t = true

/-- It may issue: the TE may have another operation outstanding (R257). -/
def teTurn (s : State) (k op ctx : Nat) (t : TeCmd) : Prop := teNext s k op ctx t ∧ (s.core k).teOps < 48

/-- An operation issued on a core: the next number, and last of those outstanding. -/
def issued (s t : State) (k ctx : Nat) (u : TeCmd) (kind : TeOpKind) (src : Source) (light : Bool) : Prop :=
  (t.core k).hw.ops = (s.core k).hw.ops ++ [⟨(s.core k).hw.nextOp, ctx, u.seq, kind, src, light, none, [], false, false⟩]

/-- An operation outstanding on a core under a number given before, neither refused nor waiting for a translation, and its
accesses all translate. -/
def opReady (s : State) (k : Nat) (o : TeOp) (slot : Bool) (rs : List (Nat × Nat × Acc)) : Prop :=
  (s.core k).hw.ops.find? (fun x => x.id == o.id) = some o ∧ o.id < (s.core k).hw.nextOp ∧ o.refused = false ∧ o.waits = none
    ∧ s.haltedAt k = false ∧ probeAll s (s.core k).die (s.core k).cluster o.ctx rs slot o.got = .ok

/-- A packet of the collective transport that a port takes (R360, R375, R410): it reaches the port's own UDP port, and the port
knows the sender's next hop. -/
def takesColl (s : State) (p : Nat) (k : CollPkt) : Prop :=
  (s.port p).up = true ∧ (s.port p).redOn = true ∧ k.dport = (s.port p).udp ∧ (s.port p).gate k.arr false = .take
    ∧ look (s.port p).neigh ((s.port p).hop k.src.toNat) = some k.arr.mac.toNat

/-- Bytes that memory holds at a physical address: memory that exists, on a die that is not fenced (R267, R484). -/
def realAddr (s : State) (a : Nat) : Prop := inDram a = true ∧ s.fenced (bits a 44 42) = false

/-- A host request stands at its place among those taken, may begin, and its number is its own (R442). -/
def asked (s : State) (n code : Nat) (r : Taken) : Prop :=
  reqAt s n code = some r ∧ s.taken.find? (fun u => u.uid == r.uid) = some r

/-- A request has completed with a status and DATA (R439, R440, R442): it is gone from those taken, and its entry with its
tag stands at CPL_PRODUCER of its session. -/
def completes (s t : State) (r : Taken) (status : Nat) (data : Bytes) : Prop :=
  (∀ u ∈ t.taken, u.uid ≠ r.uid) ∧ ∀ x, look s.sess r.sess = some x → ∃ y, look t.sess r.sess = some y
    ∧ y.cplProd = x.cplProd + 1
    ∧ Mem.bytes y.space (0x50000 + x.cplProd % 2 ^ x.cplLog * 64) 64
        = entryTag x (natLe 4 r.reqId ++ natLe 2 status ++ natLe 2 r.code ++ fit 40 data) 1 x.cplProd

/-- A REQUEST of a session, valid and new, of a code that it may send (R388 to R390, R376), on a port that may send CONTROL. -/
def sessAsked (s : State) (m : Datagram) (code id : Nat) (x : Session) : Prop :=
  sessOf s m 0x10 = some (id, x) ∧ field m.body 16 2 = code ∧ (untag x.master m.body).2 = true ∧ 36 ≤ m.body.length
    ∧ x.seqIn < field m.body 12 4 ∧ (field m.body 12 4 = x.lastReq → x.lastResp = none) ∧ (s.port m.port).ready 0 x.ip = true
    ∧ (s.norView.macsecReq = true → (s.port x.port).macsec ≠ none ∨ code = 8)

/-- The RESPONSE to a REQUEST (R384, R388): STATUS and DATA under the next SEQ, with its tag. -/
def response (x : Session) (id status : Nat) (data : Bytes) : Bytes :=
  let msg := sessHead 0x11 (36 + data.length) id (x.seqOut + 1) ++ natLe 2 status ++ zeros 2 ++ data
  msg ++ tagD x msg

/-- A REQUEST has been answered: the RESPONSE went out, the session has taken its SEQ and keeps the RESPONSE (R389), and no
other session changed. -/
def sessAnswers (s t : State) (m : Datagram) (id : Nat) (x : Session) (status : Nat) (data : Bytes) : Prop :=
  t.out = s.out ++ [.sess m.port x.ip 0x11 (response x id status data)]
    ∧ look t.sess id = some { x with
        seqIn := field m.body 12 4, lastMsg := bootTime s, seqOut := x.seqOut + 1, lastReq := field m.body 12 4
        lastResp := some (response x id status data) }
    ∧ ∀ j, j ≠ id → look t.sess j = look s.sess j

/-- The requests that only an ADMIN session may send (R382, R383). -/
def adminRows : List (Nat × (Datagram → Instr)) :=
  [(2, .ownerAdd), (3, .ownerRemove), (4, .policySet), (5, .passwordSet), (6, .ownerRelease), (7, .bootAddress), (12, .resetModule),
   (13, .dumpOpen), (14, .dumpRelease), (15, .dumpSize), (16, .shutdown)]

/-- The number that bits spell, the first the lowest. -/
def bitsValue (l : List Bool) : Nat := l.foldr (fun b n => b2n b + 2 * n) 0

/-- The element formats of the tensors (R115, R116, R118, R119). -/
def formats : List Fmt := [.fp32, .bf16, .fp16, .e4m3, .e5m2, .e2m3, .e3m2, .e2m1, .int8, .b3]

end Sys2Proof.Machine
end

