-- ==== Sys2Proof/WellFormed.lean ====
section
/-! DEFINITION. Which operands of a command the hardware can be given: register indices, pin values and
packet fields within their widths. The meanings do not rest on it; it says what a sender may send. -/

set_option autoImplicit false

namespace Sys2Proof

def CoreId.wf (m : Model) (c : CoreId) : Bool := decide (c.die < m.dies) && decide (c.phys < 68)

def RocePkt.wf (k : RocePkt) : Bool :=
  decide (k.qpn < 2 ^ 24) && decide (k.psn < 2 ^ 24) && decide (k.tag.getD 0 < 8) && decide (k.dscp < 64) && decide (k.key < 2 ^ 32)
    && decide (k.va < 2 ^ 64) && decide (k.mask.length ≤ 64)

def CollPkt.wf (k : CollPkt) : Bool :=
  decide (k.member < 4096) && decide (k.inc < 2 ^ 16) && decide (k.destInc < 2 ^ 16) && decide (k.bucket < 2 ^ 16)
    && decide (k.epoch < 2 ^ 16) && decide (k.hop < 2 ^ 16) && decide (k.sport < 2 ^ 16) && decide (k.dport < 2 ^ 16) && decide (k.payload.length ≤ 8200)

/-- A session message is at most 8,952 bytes (R384). -/
def Datagram.wf (m : Model) (d : Datagram) : Bool := decide (d.port < m.ports) && decide (d.body.length ≤ 8952)

/-- A register of a unit that the model carries (R5, R16). -/
def Reg.fitted (m : Model) : Reg → Bool
  | .vcore d | .ramp d | .current d | .scrub d | .cellarTime d | .healthHang d | .healthReports d | .healthCounts d | .copSpares d
  | .copRates d => decide (d < m.dies)
  | .xlateFault d k | .xlateCounts d k | .nearErrors d k => decide (d < m.dies) && decide (k < 8)
  | .farErrors d k | .rackStatus d k | .rackCounts d k | .rackControl d k => decide (d < m.dies) && decide (k < 16)
  | .cellarCore d n | .cellarWdog d n => decide (d < m.dies) && decide (n < 5)
  | .partConfig p | .partSwitch p | .partClearing p | .partReset p | .partBarrier p _ => decide (p / 8 < m.dies)
  | .portStatus p | .portQos p | .portDscp p | .portRatectl p | .portLinkCounts p | .portRoceCounts p | .portCongestion p | .portDrops p
  | .collStatus p | .collRounds p | .collWire p | .collDrops p => decide (p < m.ports)
  | .guardStatus | .guardCounts | .guardConfig | .trellisStatus | .sessionStatus | .cellarBoot | .dieFence | .dumpStatus
  | .availCounts => true
  | .paceStatus c | .workBeats c | .coverBeats c | .coverControl c | .opeConfig c | .opeStatus c | .opeBank c _ | .opeSkew c
  | .opeRemap c _ | .opeEscapes c | .tstoreErrors c | .fmtErrors c | .accFlags c | .accLast c | .accReadout c | .ccStatus c
  | .ccConsumed c | .ccRetired c | .ccFault c | .ccFaultWord c | .ccMark c | .ccLc c _ | .veControl c | .veCheck c | .teIndex c
  | .veTrain c | .syncWaitState c | .syncWaitPolls c | .syncBackoff c | .syncTimeout c | .syncHold c | .syncUnfenced c
  | .syncXlate c | .streamRing c _ | .lateSlots c | .streamFlow c | .teOutstanding c => c.wf m

/-- The commands whose operands can be ill formed, by the units and widths they name. -/
def Instr.wf (m : Model) : Instr → Bool
  | .railOutOfTolerance d row _ => decide (d < m.dies) && decide (row < 7)
  | .sensorRead d n _ _ => decide (d < m.dies) && decide (n < 20)
  | .delayMonitorCheck d k _ => decide (d < m.dies) && decide (k < 8)
  | .paceIntervalEnd c _ => c.wf m
  | .coverCropBeat c a => c.wf m && decide (a < 4)
  | .ccDispatch c => c.wf m
  | .oploadLanded c a _ => c.wf m && decide (a < 4)
  | .roceInboundWrite p k _ => decide (p < m.ports) && k.wf
  | .roceInboundRead p k _ => decide (p < m.ports) && k.wf
  | .roceInboundFetchAdd p k _ => decide (p < m.ports) && k.wf
  | .registerWrite r _ => r.fitted m
  | .pfcReceived p prio _ => decide (p < m.ports) && decide (prio < 8)
  | .collDataReceived p k => decide (p < m.ports) && k.wf
  | .collScaleReceived p k => decide (p < m.ports) && k.wf
  | .hostHello d => d.wf m
  | .hostProof d => d.wf m
  | .attest d => d.wf m
  | _ => true

end Sys2Proof
end

