-- ==== Sys2Proof/Certificates/Slice0/Obligations.lean ====
section
/-! DEFINITION. The statements for the provers. Each docstring names the rules of spec/ that a statement formalises, and
says where a clause is the model's own choice. A statement of what a row does concludes that its meaning answers a next
state; the equation t = (s with some fields of t) is its frame: every other field of the state is as it was. -/

set_option autoImplicit false

open Sys2Proof Sys2Proof.Machine

/-! ### The machine -/

/-- A step takes the command at the front of the queue and is exec of it on the state with the queue's rest (the form of a
block, log 1). -/
def Obligations.StepRunsFront : Prop :=
  ∀ (c : Instr) (rest : List Instr) (s : State),
    step { s with pending := c :: rest } = exec c { s with pending := rest }

/-- The model's own (log 3): on an empty queue one period of the 25 MHz reference passes. While the standby rails are up
every cellar's local time counts it (R75, R427), the VE writes of every core land (R202), and log entries that wait may go to
NOR (R521). While no cellar core restarts and no firmware update is under way, nothing else changes; without the standby rails
nothing at all does. -/
def Obligations.StepOnEmptyQueue : Prop :=
  ∀ s : State, s.pending = [] →
    (s.power.standby = false → step s = .next s)
    ∧ (s.power.standby = true → s.fw.update = none → (∀ d n, d < s.model.dies → n < 5 → (cellarCore s d n).ends = none) →
      ∃ t, step s = .next t ∧ t = { s with dies := t.dies, cores := t.cores, power := t.power, nor := t.nor }
        ∧ (∀ d, t.die d = if (look s.dies d).isSome then { s.die d with time := (s.die d).time + 1 } else s.die d)
        ∧ (∀ k, t.core k = { s.core k with hw := { (s.core k).hw with writes := [] } })
        ∧ t.power = { s.power with logQ := t.power.logQ, logMinute := t.power.logMinute } ∧ t.nor = { s.nor with log := t.nor.log }
        ∧ (s.power.logQ = [] → t.power = s.power ∧ t.nor = s.nor))

/-- At reset the memory has its canonical form, no register of the supply guard or of a port has left its At start value
(R78, R396), PGOOD is low and no command waits. Clauses about values that no rule gives rest on log 5. -/
def Obligations.ResetState : Prop :=
  State.reset.memOk ∧ State.reset.pending = [] ∧ State.reset.power.pgood = false ∧ State.reset.power.resetN = false
    ∧ readReg State.reset .guardConfig = 80 ∧ readReg State.reset .guardCounts = 0
    ∧ (∀ d, readReg State.reset (.ramp d) = 64 * 2 ^ 24 + 40 * 2 ^ 8 + 40 ∧ readReg State.reset (.vcore d) = 10 * 2 ^ 16 + 10
      ∧ readReg State.reset (.current d) = 0)
    ∧ (∀ p, readReg State.reset (.portStatus p) = 0 ∧ readReg State.reset (.portDrops p) = 0)
    ∧ (∀ c, readReg State.reset (.coverControl c) = 2500 ∧ readReg State.reset (.ccStatus c) = 0)

/-- Log 4: every step keeps the canonical form of the physical memory: addresses rise, and no entry holds the byte that an
unlisted address reads. -/
def Obligations.StepKeepsMemory : Prop :=
  ∀ s t : State, s.memOk → step s = .next t → t.memOk

/-- A command adds nothing to the queue of commands, and the fitted model (R5) never changes.
A step ends in a next state, or stops because its command names a unit that the fitted model does not carry (R5, R22):
no command is refused. -/
def Obligations.StepOutcomes : Prop :=
  (∀ (c : Instr) (s t : State), exec c s = .next t → t.pending = s.pending ∧ t.model = s.model)
  ∧ (∀ s : State, (∃ t, step s = .next t) ∨ step s = .fault .noSuchUnit)
/-! ### Power, pins, supply guard (chapters 01 and 02) -/

/-- INPUT_48V_APPLIED (R28, R31 steps 1 to 3, R26, R40): above 38 V the standby rails rise, every local time starts at 0 and
the target takes its static address from SLOT_ID as it stands; at 38 V or below the guard holds the module. With the
standby rails up nothing reads SLOT_ID again (log 38). -/
def Obligations.InputApplied : Prop :=
  ∀ (slot : BitVec 3) (mv : Nat) (s : State),
    (s.power.standby = true → exec (.input48vApplied slot mv) s = .next { s with power := { s.power with slotPins := slot.toNat } })
    ∧ (s.power.standby = false → 38000 < mv → ∃ t, exec (.input48vApplied slot mv) s = .next t
        ∧ t = { s with power := t.power, i3c := t.i3c, dies := t.dies }
        ∧ t.power.applied = true ∧ t.power.standby = true ∧ t.power.step = 4 ∧ t.power.guardHeld = s.power.guardHeld ∧ t.power.mv = mv
        ∧ t.i3c.static = some (0x58 + slot.toNat) ∧ t.i3c.dyn = none
        ∧ ∀ d, d < s.model.dies → (t.die d).time = 0 ∧ (t.die d).railsOn = false ∧ (t.die d).dramOn = false)
    ∧ (s.power.standby = false → mv ≤ 38000 → ∃ t, exec (.input48vApplied slot mv) s = .next t
        ∧ t = { s with power := t.power } ∧ t.power.standby = false ∧ t.power.guardHeld = true)

/-- RESET_N falls for at least 10 µs while the standby rails are up (R27, R33, R41, R427): PGOOD is low, every unit, session,
context and object is at its start, and memory keeps exactly the bytes of the dies whose DRAM rails stay up: every one
while the module runs, none during power-up. Below 1 µs nothing changes (R33).
RESET_N rises (R31 steps 5 to 8, R32, R41, R428): the module leaves reset when the standby rails are up and nothing holds
it; with a candidate, the lowest one is elected, PGOOD is released and that die's port starts. Held back, only the pin
changes; scan hold and a latched trip have their own rule (R43, R49). -/
def Obligations.ResetPin : Prop :=
  (∀ s : State,
      exec (.resetNFall .short) s = .next s
      ∧ (s.power.resetN = true → s.power.standby = true → ∃ t, exec (.resetNFall .long) s = .next t
          ∧ t.power.resetN = false ∧ t.power.pgood = false ∧ t.power.standby = true ∧ t.power.step = 4
          ∧ t.cores = [] ∧ t.clusters = [] ∧ t.racks = [] ∧ t.parts = [] ∧ t.ctxs = [] ∧ t.objs = [] ∧ t.ports = [] ∧ t.keys = []
          ∧ t.sess = [] ∧ t.taken = [] ∧ t.fw = Fw.init ∧ t.trellis = Trellis.init ∧ t.due = []
          ∧ (∀ d, (t.die d).railsOn = false)
          ∧ (∀ a, Mem.byte t.mem a = if 7 ≤ s.power.step ∧ keepsDram s a then Mem.byte s.mem a else 0))
      ∧ (s.power.resetN = true → ∃ t, exec (.resetNFall .between) s = .next t ∧ (t.power.resetN = true → t = { s with free := t.free })))
  ∧ (∀ (env : StartEnv) (s : State), s.power.resetN = false → s.power.scan = false → s.power.tripLow = false →
      (mayStart s env = false → exec (.resetNRise env) s = .next { s with power := { s.power with resetN := true, tripSawReset := false } })
      ∧ (mayStart s env = true → env.railFail = [] → env.norOk = true → s.nor.copy.entries = [] → env.lanes = [] → 0 ∉ env.noRef →
          0 ∈ env.cellarOk → 0 ∈ env.serdesOk →
          ∃ t, exec (.resetNRise env) s = .next t ∧ t.power.resetN = true ∧ t.power.pgood = true ∧ t.power.step = 8
            ∧ t.fw.bootDie = 0 ∧ t.fw.elected = true ∧ t.power.fenced = [] ∧ t.maps = [] ∧ (t.port 0).trying = true
            ∧ (∀ d, d < s.model.dies → (t.die d).railsOn = true ∧ (t.die d).dramOn = true ∧ (t.die d).set = 10)))

/-- RAIL_OUT_OF_TOLERANCE (R41, R42, R465 class 10): for an unfenced die with its rails up PGOOD goes low, ALERT_N goes low
with the SUPPLY bit, the record waits with its REASON and voltage, and an L3 of the die is called for; every L2 of the die
under way is abandoned for it (R487). The rails of a fenced die do not count. -/
def Obligations.RailLeavesTolerance : Prop :=
  ∀ (d row mv : Nat) (s : State), d < s.model.dies →
    (s.fenced d = true → exec (.railOutOfTolerance d row mv) s = .next s)
    ∧ (s.fenced d = false → (s.die d).railsOn = true → (s.die d).reports.length < 256 →
        ∃ t, exec (.railOutOfTolerance d row mv) s = .next t
          ∧ t = { s with power := t.power, i3c := t.i3c, nor := t.nor, dies := t.dies, out := t.out, due := t.due, causes := t.causes }
          ∧ t.power.pgood = false ∧ t.power.alertLow = true ∧ bit t.i3c.alert 1 = true ∧ Due.l3 d ∈ t.due ∧ (∀ f, Due.l2 d f ∉ t.due)
          ∧ (t.die d).reports = (s.die d).reports ++ [{ Fault64.blank with
              cls := 10, sev := 4, die := d, unit := 15, index := row, whereAt := row, a := 2, b := mv, time := (s.die d).time }])

/-- SENSOR_READ (R43, R70, R517): a junction sensor's reading is kept; from 100 °C its die is throttled, and below 115 °C
nothing else of the die changes but its cooling time, and of the module only a latched trip may end. Above 115 °C a working sensor trips: THERM_TRIP_N low and latched,
every die rail off, DRAM rails included, and memory lost.
THERMAL_THROTTLE_STEP (R70): with a sensor at 100 °C or above and no step in the last millisecond, VCORE goes down by
10 mV and never below VCORE_MIN; at VCORE_MIN the admission fraction goes down by 1/64 and never below 8/64. After 10 ms
below 95 °C the fraction comes back first. -/
def Obligations.Thermal : Prop :=
  (∀ (d n : Nat) (value amps : Int) (s : State), d < s.model.dies → s.power.standby = true → n < 8 → sensorOk s d n = true →
      (value ≤ 460 → ∃ t, exec (.sensorRead d n value amps) s = .next t ∧ t = { s with dies := t.dies, power := t.power }
          ∧ (s.power.tripLow = false → t.power = s.power)
          ∧ get 0 (t.die d).sensors n = value ∧ (400 ≤ value → (t.die d).throttled = true)
          ∧ (t.die d) = { s.die d with
              sensors := put (s.die d).sensors n value, amps := put (s.die d).amps n amps
              throttled := (t.die d).throttled, coolSince := (t.die d).coolSince }
          ∧ ∀ e, e ≠ d → t.die e = s.die e)
      ∧ (460 < value → s.power.tripLow = false → ∃ t, exec (.sensorRead d n value amps) s = .next t
          ∧ t.power.tripLow = true ∧ t.power.tripSawReset = false ∧ t.power.pgood = false ∧ t.mem = []
          ∧ (∀ e, (t.die e).railsOn = false ∧ (t.die e).dramOn = false)))
  ∧ (∀ (d : Nat) (s : State), d < s.model.dies → (∀ t, (s.die d).lastThr = some t → t + 25000 ≤ (s.die d).time) →
      (anyAt s d 100 = true → (s.die d).vmin < (s.die d).set → ∃ t, exec (.thermalThrottleStep d) s = .next t
          ∧ (t.die d).set = Nat.max (s.die d).vmin ((s.die d).set - 2) ∧ (t.die d).admitCap = (s.die d).admitCap
          ∧ ((s.die d).thrV = 0 ∧ (s.die d).thrA = 0 → bit t.i3c.alert 2 = true) ∧ t.mem = s.mem ∧ t.cores = s.cores)
      ∧ (anyAt s d 100 = true → (s.die d).set ≤ (s.die d).vmin → ∃ t, exec (.thermalThrottleStep d) s = .next t
          ∧ (t.die d).set = (s.die d).set ∧ (t.die d).admitCap = (if 8 < (s.die d).admitCap then (s.die d).admitCap - 1 else (s.die d).admitCap)
          ∧ t.mem = s.mem ∧ t.cores = s.cores)
      ∧ (anyAt s d 100 = false → allBelow s d 95 = true → (∃ c, (s.die d).coolSince = some c ∧ c + 250000 ≤ (s.die d).time) →
          0 < (s.die d).thrA →
          exec (.thermalThrottleStep d) s = .next (s.setDie d { s.die d with
            admitCap := (s.die d).admitCap + 1, thrA := (s.die d).thrA - 1, lastThr := some (s.die d).time })))

/-- The entries and releases of Hold, Throttle and Over (R71, R72, R73, R78): below an entry threshold the level begins and
is counted once, above its release threshold it ends; V48 and the lowest input are recorded each time. Memory, cores and
every unit but the guard, its records and the log stay; where Hold ends, what waited of the map is written, and spare-ins that waited
for space are scheduled (R510).
Reset and its release (R26, R71, R74): below 38 V every rail falls, near and far memory and the dump region are lost, the
counts stay and the entry is counted; above 40 V the module begins again at step 1. V48_MIN_RESET sets V48_MIN (R78). -/
def Obligations.SupplyGuard : Prop :=
  (∀ (mv : Nat) (s : State), s.power.standby = true →
      let low := Nat.min s.power.minSeen (mv / 50)
      (mv < 42000 → exec (.supplyHoldEnter mv) s = .next { s with power := { s.power with
          mv := mv, minSeen := low, hold := true, holds := if s.power.hold then s.power.holds else hold 16 s.power.holds 1 } })
      ∧ (43000 < mv → ∃ t, exec (.supplyHoldRelease mv) s = .next t
          ∧ t = { s with power := t.power, nor := t.nor, maps := t.maps, parts := t.parts, clusters := t.clusters, sess := t.sess, i3c := t.i3c, out := t.out }
          ∧ (s.power.spareQ = [] → t = { s with power := t.power, nor := t.nor })
          ∧ t.power.hold = false ∧ t.power.mv = mv ∧ t.power.minSeen = low
          ∧ (s.power.hold = true → s.nor.ok = true → s.power.spareQ = [] → t.power.mapQ = [] ∧ t.power.mapDue = false))
      ∧ (mv < 40500 → ∃ t, exec (.supplyThrottleEnter mv) s = .next t
          ∧ t = { s with power := t.power, nor := t.nor, i3c := t.i3c, dies := t.dies, out := t.out }
          ∧ t.power.throttle = true ∧ (s.power.throttle = false → t.power.throttles = hold 16 s.power.throttles 1
            ∧ t.power.alertLow = true ∧ bit t.i3c.alert 1 = true))
      ∧ (41500 < mv → exec (.supplyThrottleRelease mv) s = .next { s with power := { s.power with
          mv := mv, minSeen := low, throttle := false } })
      ∧ (62000 < mv → ∃ t, exec (.supplyOverEnter mv) s = .next t
          ∧ t = { s with power := t.power, nor := t.nor, i3c := t.i3c, dies := t.dies, out := t.out }
          ∧ t.power.overV = true ∧ t.power.minSeen = low)
      ∧ (mv < 61000 → exec (.supplyOverRelease mv) s = .next { s with power := { s.power with
          mv := mv, minSeen := low, overV := false } }))
  ∧ (∀ (mv : Nat) (s : State),
      (s.power.standby = true → mv < 38000 → ∃ t, exec (.supplyResetEnter mv) s = .next t
          ∧ t.power.standby = false ∧ t.power.guardHeld = true ∧ t.power.pgood = false
          ∧ t.power.resets = hold 16 s.power.resets (if s.power.guardHeld then 0 else 1) ∧ t.power.holds = s.power.holds ∧ t.power.throttles = s.power.throttles
          ∧ t.mem = [] ∧ t.bad = [] ∧ t.dump = Dump.init ∧ t.dies = [] ∧ t.cores = [] ∧ t.sess = [] ∧ t.i3c = I3c.init)
      ∧ (s.power.applied = true → s.power.guardHeld = true → 40000 < mv → ∃ t, exec (.supplyResetRelease mv) s = .next t
          ∧ t = { s with power := t.power, i3c := t.i3c, dies := t.dies } ∧ t.power.standby = true ∧ t.power.guardHeld = false
          ∧ (s.power.standby = false → t.power.step = 4) ∧ t.power.resets = s.power.resets)
      ∧ ∀ v, exec (.v48MinReset v) s = .next { s with power := { s.power with minSeen := 0xFFF } })

/-- NOR_RETRY and SCAN_HOLD_ENTER (R44, R49): once a minute the boot die tries again; a failure alerts again. COMMAND 0x3C
with RESET_N low raises the die rails and releases no engine.
The TAP of a die (R38, R47 to R49), while the standby rails are up: BYPASS, IDCODE with the code of stepping B,
SAMPLE/PRELOAD; EXTEST and EXTEST_PULSE drive the pins in scan hold on an unfenced die and are BYPASS elsewhere;
EXTEST_TRAIN; then one data scan of the chain TDI, D0, ascending dies, TDO leaves, the register nearest TDO first, in which a
TAP whose instruction selects the boundary register has captured its pins (log 70). TRST_N selects IDCODE in every TAP (IEEE
1149.1; log 6). Only the TAPs, the output and the free values taken change. -/
def Obligations.PinsAndTap : Prop :=
  (∀ s : State,
      (s.nor.ok = false → s.fw.elected = true → s.nor.lastTry + 1500000000 ≤ (s.die s.fw.bootDie).time →
        (∃ t, exec (.norRetry true) s = .next t ∧ t.nor.ok = true
            ∧ t = { s with power := t.power, nor := t.nor, cursors := t.cursors, maps := t.maps, parts := t.parts, clusters := t.clusters, sess := t.sess, i3c := t.i3c, out := t.out }
            ∧ (s.power.spareQ = [] → t = { s with power := t.power, nor := t.nor, cursors := t.cursors }))
        ∧ (∃ t, exec (.norRetry false) s = .next t ∧ t.nor.ok = false ∧ bit t.i3c.alert 7 = true
            ∧ t = { s with power := t.power, nor := t.nor, i3c := t.i3c, out := t.out }))
      ∧ (s.power.resetN = false → s.power.standby = true → s.power.tripLow = false → s.power.guardHeld = false →
          s.power.scan = false → tooHot s = false → ∃ t, exec (.scanHoldEnter []) s = .next t ∧ t.power.scan = true ∧ t.power.resetN = false
            ∧ t.cores = s.cores ∧ ∀ d, d < s.model.dies → (t.die d).railsOn = true))
  ∧ (∀ (d : Nat) (pins cells : List Bool) (s : State), d < s.model.dies → s.power.standby = true →
      let row := fun (g : Option Nat) (t : Tap) => scanChain g (s.setDie d { s.die d with tap := t })
      let x := (s.die d).tap
      let asBypass := { x with ir := .bypass, dr := [false], driven := false }
      exec (.tapBypass d) s = .next (row none asBypass)
      ∧ exec (.tapIdcode d) s = .next (row none { x with ir := .idcode, dr := idcode, driven := false })
      ∧ exec (.tapSamplePreload d pins cells) s = .next (row (some d) { x with ir := .sample, dr := pins, cells := cells, driven := false })
      ∧ exec (.tapExtest d) s = .next (row none (if s.power.scan && !s.fenced d then { x with ir := .extest, driven := true } else asBypass))
      ∧ exec (.tapExtestPulse d) s = .next (row none (if s.power.scan && !s.fenced d then { x with ir := .extestPulse, driven := true } else asBypass))
      ∧ exec (.tapExtestTrain d) s = .next (row none { x with ir := .extestTrain, driven := true })
      ∧ ∃ t, exec .jtagReset s = .next t ∧ t = { s with dies := t.dies }
          ∧ ∀ e, e < s.model.dies → (t.die e) = { s.die e with tap := { (s.die e).tap with ir := .idcode, dr := [], driven := false } })
  ∧ (∀ (g : Option Nat) (s : State), s.power.standby = true →
      let t := scanChain g s
      t = { s with dies := t.dies, out := t.out, free := t.free }
      ∧ t.out = s.out ++ [.tdo ((List.range s.model.dies).reverse.flatMap (fun e => (t.die e).tap.scanned))]
      ∧ ∀ e, t.die e = { s.die e with tap := { (s.die e).tap with dr := (t.die e).tap.dr } }
          ∧ ((s.die e).tap.boundary = false ∨ g = some e ∨ s.model.dies ≤ e → t.die e = s.die e)
          ∧ (e < s.model.dies → (s.die e).tap.boundary = true → g ≠ some e → (t.die e).tap.dr.length = Config.boundaryCells))

/-! ### Pace, VCORE, ramp, cover crop (chapter 02) -/

/-- PACE_INTERVAL_END, COVER_CROP_BEAT, COVER_WINDOW_END (R57, R65, R66, R67, R76): 4,096 periods after VCORE came up or the last interval ended the loops become
RATE; a cover-crop beat
moves its array's window, its beats and COVER_BEATS and nothing else; when the window has ended the array ramps, and then it is idle.
VCORE_SET and VCORE_SLEW_DONE (R54, R70, R77, R300): with the throttle at rest the set point takes the code, held to 50, to
VCORE_MIN and to the highest the die may take; BUSY stands while it differs from ACTUAL; no core changes. RAMP_UPDATE
(R64, R68): an update that keeps the rate, 700 A and the caps moves ADMIT by one step at most; one that breaks the rate
moves nothing, nor does one whose measured current moves by more than 50 A/µs.
DELAY_MONITOR_CHECK (R55, R56): below 10 % the tap rises; at tap 7 the cluster halts, ALERT_N goes low, and a SUPPLY record
of reason 1 waits; above 25 % for 256 comparisons, 2^20 beats, the tap falls. -/
def Obligations.PaceAndVoltage : Prop :=
  (∀ (c : CoreId) (s : State), fittedCore s c →
      let k := ck c
      (∀ loops, (s.die c.die).railsOn = true →
        Nat.max (s.die c.die).railsAt (s.core k).hw.paceAt + 4096 ≤ (s.die c.die).time →
        exec (.paceIntervalEnd c loops) s = .next (s.onC k (fun x => { x with hw := { x.hw with
          paceAt := (s.die c.die).time, regs := { x.hw.regs with paceValid := true, paceRate := loops.toNat } } })))
      ∧ (∀ a n, (s.core k).hw.cover[a]? = some (.cover, n) → n < coverMax (s.core k) →
        exec (.coverCropBeat c a) s = .next (s.onC k (fun x => { x with hw := { x.hw with
          cover := x.hw.cover.modify a (fun _ => (.cover, n + 1)), beats := x.hw.beats.modify a (fun b => (b.1 + 1, b.2)), regs := { x.hw.regs with coverBeats := x.hw.regs.coverBeats + 1 } } })))
      ∧ (∀ a n, (s.core k).hw.cover[a]? = some (.cover, n) → coverMax (s.core k) ≤ n →
        exec (.coverWindowEnd c a) s = .next (s.onC k (fun x => { x with hw := { x.hw with
          cover := x.hw.cover.modify a (fun _ => (.ramp, n)), beats := x.hw.beats.modify a (fun b => (b.1, b.2 + 1)) } })))
      ∧ (∀ a n, (s.core k).hw.cover[a]? = some (.ramp, n) →
        exec (.coverWindowEnd c a) s = .next (s.onC k (fun x => { x with hw := { x.hw with
          cover := x.hw.cover.modify a (fun _ => (.idle, 0)), beats := x.hw.beats.modify a (fun b => (b.1, b.2 + 1)) } }))))
  ∧ (∀ (d : Nat) (s : State), d < s.model.dies →
      (∀ code, (s.die d).thrV = 0 → let v := Nat.min (Nat.max (Nat.min code.toNat 50) (s.die d).vmin) (vcoreTop s d)
        exec (.vcoreSet d code) s = .next (s.setDie d { s.die d with set := v, busy := decide (v ≠ (s.die d).actual) }))
      ∧ exec (.vcoreSlewDone d) s = .next (s.setDie d { s.die d with actual := (s.die d).set, busy := false })
      ∧ (∀ est meas us, Nat.max (s.die d).est (s.die d).meas ≤ Nat.max est meas + Nat.min 50 (s.die d).downRate * us →
          Nat.max est meas ≤ Nat.max (s.die d).est (s.die d).meas → moved (s.die d).meas meas ≤ 50 * us → Nat.max est meas ≤ 700 →
          exec (.rampUpdate d false est meas us []) s = .next (s.setDie d { s.die d with
            est := est, meas := meas, adm := (s.die d).adm - 1 }))
      ∧ (∀ est meas us, Nat.max (s.die d).est (s.die d).meas ≤ Nat.max est meas →
          Nat.max est meas ≤ Nat.max (s.die d).est (s.die d).meas + Nat.min 50 (s.die d).upRate * us →
          moved (s.die d).meas meas ≤ 50 * us → Nat.max est meas ≤ 700 → overCap s d (Nat.max est meas) = false →
          exec (.rampUpdate d true est meas us []) s = .next (s.setDie d { s.die d with
            est := est, meas := meas, adm := Nat.min (Nat.min 64 (s.die d).admitCap) ((s.die d).adm + 1) }))
      ∧ (∀ up est meas us parts, (Nat.max (s.die d).est (s.die d).meas + 50 * us < Nat.max est meas ∨ 50 * us < moved (s.die d).meas meas) →
          exec (.rampUpdate d up est meas us parts) s = .next s))
  ∧ (∀ (d k margin : Nat) (s : State), d < s.model.dies → k < 8 → (s.cluster d k).halted = false →
      let x := s.cluster d k
      (margin < 10 → x.tap < 7 →
        exec (.delayMonitorCheck d k margin) s = .next (s.setCluster d k { x with tap := x.tap + 1, above := 0 }))
      ∧ (25 < margin → exec (.delayMonitorCheck d k margin) s = .next (s.setCluster d k
          (if 256 ≤ x.above + 1 then { x with tap := x.tap - 1, above := 0 } else { x with above := x.above + 1 })))
      ∧ (10 ≤ margin → margin ≤ 25 → exec (.delayMonitorCheck d k margin) s = .next (s.setCluster d k { x with above := 0 }))
      ∧ (margin < 10 → 7 ≤ x.tap → (s.die d).reports.length < 256 → ∃ t, exec (.delayMonitorCheck d k margin) s = .next t
          ∧ (t.cluster d k).halted = true ∧ t.mem = s.mem ∧ bit t.i3c.alert 1 = true
          ∧ ∃ f ∈ (t.die d).reports, f.cls = 10 ∧ f.a = 1 ∧ f.whereAt = k ∧ f.sev = 3))
/-! ### Command core (chapter 06) -/

/-- The CC words that change its scalar state (R173, R175, R177, R188, R190, R191): executed, each moves past its word, counts
as progress, and writes CONSUMER back by R170; the state it sets is that of its row and nothing else of the core. MARKs
also write the header.
LOOP and SKIP (R186, R187, R189): a LOOP with its body there copies it into the buffer, consumes it, and begins iteration
0 with 0 in its counter; inside a body the inner body lies in the buffer already. With COUNT 0 the body is passed and the
counter takes 0. A SKIP whose comparator differs from NEG passes its words, else only itself. -/
def Obligations.CcWords : Prop :=
  (∀ (c : CoreId) (s s1 : State) (w : CmdWord) (idx : Nat), fittedCore s c → ccFinds s (ck c) w idx s1 → engineOf w = 0 →
      (s1.core (ck c)).cx.cc.takes w = true →
      let k := ck c
      let goes := fun (t : State) (f : CC → CC) =>
        (Host.Outcome.next (writeBack ((t.onCC k (fun x => (f x).past 1)).progress k 0) k) : Res)
      let hdr := (s1.core k).cx.cc.hdr
      (opcode w = 0x00 → exec (.nop c) s = goes s1 id)
      ∧ (opcode w = 0x02 → exec (.setlc c) s = goes s1 (fun x => { x with lcs := x.lcs.modify (wf w 111 108) (fun _ => wf w 107 76) }))
      ∧ (opcode w = 0x03 → exec (.addlc c) s = goes s1 (fun x => { x with
          lcs := x.lcs.modify (wf w 111 108) (fun v => (v + wf w 107 76) % 2 ^ 32) }))
      ∧ (opcode w = 0x04 → exec (.cmpset c) s = goes s1 (fun x => { x with
          cmps := x.cmps.modify (wf w 111 109) (fun _ => ⟨wf w 108 105, wf w 104 102, wf w 101 70⟩) }))
      ∧ (opcode w = 0x06 → wf w 111 110 = 1 → exec (.markStep c) s =
          goes (ctlWrite s1 k .cc (hdr + 0x20) (natLe 8 (wf w 109 78))) (fun x => { x with step := wf w 109 78, quiesced := x.quiesceReq }))
      ∧ (opcode w = 0x06 → wf w 111 110 = 2 → exec (.markKeep c) s =
          goes (ctlWrite s1 k .cc (hdr + 0x28) (natLe 8 (wf w 109 78))) (fun x => { x with keep := wf w 109 78 }))
      ∧ (opcode w = 0x07 → (s1.ctx ((s1.core k).ctx.getD 0)).ringVa = 0 → exec (.dsync c) s =
          goes (takeEntries (s1.onHw k (fun h => { h with descs := [] })) k ((List.range 32).filter (s1.core k).ringIdle)
            (s1.ctx ((s1.core k).ctx.getD 0)).stream) id))
  ∧ (∀ (c : CoreId) (s s1 s2 : State) (w : CmdWord) (idx : Nat) (ws : List CmdWord), fittedCore s c →
      ccFinds s (ck c) w idx s1 → engineOf w = 0 → (s1.core (ck c)).cx.cc.takes w = true →
      spanWords s1 (ck c) (spanOf w) = (.word 0 0 s2, ws) → (s2.core (ck c)).cx.cc.stopped = false →
      (s2.core (ck c)).cx.cc.frames = (s1.core (ck c)).cx.cc.frames →
      let k := ck c
      let x := (s1.core k).cx.cc
      let lc := wf w 111 108
      let goes := fun (t : State) => (Host.Outcome.next (writeBack (t.progress k 0) k) : Res)
      (opcode w = 1 → wf w 107 76 ≠ 0 → x.frames = [] → exec (.loop c) s = goes (s2.onCC k (fun y => { y with
          waitWords := false, lcs := y.lcs.modify lc (fun _ => 0), buf := ws, bufIdx := idx + 1
          consumer := y.consumer + 1 + spanOf w, frames := [⟨0, spanOf w, 0, 0, wf w 107 76, lc⟩] })))
      ∧ (∀ f rest, opcode w = 1 → wf w 107 76 ≠ 0 → x.frames = f :: rest → rest.length < 3 →
          1 + spanOf w ≤ f.len - f.pos → exec (.loop c) s = goes (s2.onCC k (fun y => { y with
            waitWords := false, lcs := y.lcs.modify lc (fun _ => 0)
            frames := ⟨f.start + f.pos + 1, spanOf w, 0, 0, wf w 107 76, lc⟩ :: { f with pos := f.pos + 1 + spanOf w } :: rest })))
      ∧ (opcode w = 1 → wf w 107 76 = 0 → x.frames = [] → checkSpan 1 [some (spanOf w)] 0 ws = none →
          exec (.loop c) s = goes (s2.onCC k (fun y => { y with
            waitWords := false, consumer := y.consumer + (1 + spanOf w), lcs := y.lcs.modify lc (fun _ => 0) })))
      ∧ (opcode w = 5 → x.frames = [] → x.cmp (wf w 111 109) ≠ bit w.toNat 108 → checkSpan 0 [none] 0 ws = none →
          exec (.skip c) s = goes (s2.onCC k (fun y => { y with waitWords := false, consumer := y.consumer + (1 + spanOf w) })))
      ∧ (opcode w = 5 → x.frames = [] → x.cmp (wf w 111 109) = bit w.toNat 108 →
          exec (.skip c) s = goes (s1.onCC k (fun y => { y with consumer := y.consumer + 1 }))))

/-- CC_DISPATCH and CC_PRODUCER_POLL (R169, R170, R173, R174, R182): a word of an engine enters that engine's queue with its
stream index while the queue holds fewer than 64, else the CC stalls on it; a word that does not execute is passed and
counts as no progress; a word that fails its checks stops the CC with its cause and raises HANG; an idle CC writes
CONSUMER back and takes the PRODUCER it reads (log 72). -/
def Obligations.CcDispatches : Prop :=
  ∀ (c : CoreId) (s s1 : State) (w : CmdWord) (idx : Nat), fittedCore s c →
    let k := ck c
    let x := (s1.core k).cx.cc
    (ccFinds s k w idx s1 → x.takes w = true → ∀ e : Engine, eNum e = engineOf w → e ≠ .cc →
      let q := (s1.core k).eng e
      (q.q.length < 64 → exec (.ccDispatch c) s = .next (writeBack (((s1.onEng k e (fun y => { y with
          q := y.q ++ [⟨w, idx, y.nextSeq, .waiting⟩], nextSeq := y.nextSeq + 1 })).onCC k
            (fun y => { y with stalled := false }.past 1)).progress k 0) k))
      ∧ (64 ≤ q.q.length → exec (.ccDispatch c) s = .next (writeBack (s1.onCC k (fun y => { y with stalled := true })) k)))
    ∧ (ccFinds s k w idx s1 → x.takes w = false → opcode w ≠ 1 → opcode w ≠ 5 →
        exec (.ccDispatch c) s = .next (writeBack (s1.onCC k (fun y => y.past 1)) k))
    ∧ ((s.liveOn k).isSome = true → (s.core k).cx.cc.stopped = false → (s.core k).cx.cc.quiesced = false →
        (s.core k).cx.cc.boundary = false → nextWord (writeBack s k) k = .word w idx s1 → checkWord w ≠ 0 →
        (s1.core k).hw.regs.stop.valid = false →
        ∃ t, exec (.ccDispatch c) s = .next t ∧ (t.core k).cx.cc.stopped = true
          ∧ (t.core k).hw.regs.stop = ⟨true, checkWord w, 0, idx, w⟩)
    ∧ (∀ b s0, (s.liveOn k).isSome = true → (s.core k).cx.cc.stopped = false → (s.core k).cx.cc.quiesced = false →
        (s.core k).ccIdle = true →
        let w := writeBack s k
        let y := (w.core k).cx.cc
        ctlRead w k .cc y.hdr 64 y.consumer y.consumer = .ok b s0 →
        y.producer ≤ field b 0x10 8 → field b 0x10 8 ≤ y.consumer + 2 ^ y.size →
        exec (.ccProducerPoll c) s = .next (s0.onCC k (fun z => { z with producer := field b 0x10 8 })))

/-! ### Synchronisation (chapter 07) -/

/-- SIGNAL and COUNTER_XLATE_FILL (R207, R209, R213, R215): a covered signal on a cached counter adds its amount, held at
2^64 − 1, to that counter and to no other, and completes; a counter that is not cached makes the queue wait for the fill,
which loads the value from the table; a signal after an uncovered write is refused and captured once. -/
def Obligations.SignalCounts : Prop :=
  ∀ (c : CoreId) (e : Engine) (s : State) (ctx : Nat) (n : QEntry), fittedCore s c →
    let k := ck c
    let id := wf n.word 111 102
    (s.head k e 0x10 = some (ctx, n) → ((s.core k).eng e).uncovered = false →
      (∀ x, (s.core k).ctr id = some x → ∃ t, exec (.signal c e) s = .next t ∧ coreOnly s t k ∧ doneSeq t k e n.seq
        ∧ (t.core k).ctr id = some { x with val := Nat.min (x.val + wf n.word 101 70) (2 ^ 64 - 1) }
        ∧ ∀ j, j ≠ id → (t.core k).ctr j = (s.core k).ctr j)
      ∧ ((s.core k).ctr id = none → ((s.core k).eng e).filling ≠ some id → ∃ t, exec (.signal c e) s = .next t ∧ coreOnly s t k
        ∧ ((t.core k).eng e) = { (s.core k).eng e with filling := some id }
        ∧ (t.core k).hw.regs.misses = hold 32 (s.core k).hw.regs.misses 1))
    ∧ (s.head k e 0x10 = some (ctx, n) → ((s.core k).eng e).uncovered = true → (s.core k).hw.regs.unfenced.valid = false →
        ∃ t, exec (.signal c e) s = .next t ∧ t = { s with cores := t.cores, dies := t.dies }
          ∧ (t.core k).hw.regs.unfenced = ⟨true, eNum e, n.idx⟩ ∧ ((t.core k).eng e).stopped = true
          ∧ (t.core k).hw.ctrs = (s.core k).hw.ctrs)
    ∧ (∀ i b s1, s.liveOn k = some ctx → ((s.core k).eng e).filling = some i → (s.core k).ctr i = none →
        (s.core k).hw.ctrs.length < 256 →
        ctlRead (s.onEng k e (fun x => { x with filling := none })) k e ((s.ctx ctx).counters + 8192 * (s.core k).lcore + 8 * i) 8 i
          ((((s.core k).eng e).next.map QEntry.idx).getD 0) = .ok b s1 →
        exec (.counterXlateFill c e) s = .next (s1.onHw k (fun h => h.touch i (leNat b) ctx (s.core k).lcore)))

/-- FENCE (R212): it begins at the head of its queue, and completes once every earlier writing command of the queue has
completed; then the queue's writes are covered, and no write of a VE issue is still under way (R202, log 74). Nothing but its
core changes. -/
def Obligations.FenceCovers : Prop :=
  ∀ (c : CoreId) (e : Engine) (s : State) (ctx : Nat) (n : QEntry), fittedCore s c →
    let k := ck c
    let b := begin_ s k e n
    (s.head k e 0x11 = some (ctx, n) → ((b.core k).eng e).covered n.seq = true →
      ∃ t, exec (.fence c e) s = .next t ∧ coreOnly s t k ∧ ((t.core k).eng e).uncovered = false ∧ doneSeq t k e n.seq
        ∧ (e = .ve → (t.core k).hw.writes = []))
    ∧ (s.head k e 0x11 = some (ctx, n) → ((b.core k).eng e).covered n.seq = false → exec (.fence c e) s = .next b)
    ∧ (s.head k e 0x11 = none → s.liveOn k = some ctx → ((s.core k).eng e).stopped = false →
        ((s.core k).eng e).q.find? (fun m => m.st == .begun && opcode m.word == 0x11) = some n →
        (((s.core k).eng e).covered n.seq = false → exec (.fence c e) s = .next s)
        ∧ (((s.core k).eng e).covered n.seq = true → e ≠ .cc →
          ∃ t, exec (.fence c e) s = .next t ∧ coreOnly s t k ∧ ((t.core k).eng e).uncovered = false ∧ doneSeq t k e n.seq
        ∧ (e = .ve → (t.core k).hw.writes = [])))

/-- WAIT and WAITMEM begin (R209, R216, R253): a counter wait whose value is there completes at once, else it stands with
nothing polled; a memory wait stands with its first read in flight.
A poll (R218, R219): before its next read is due a wait counts one poll; when it is due, a counter wait reads the counter
and ends if the value is there, and a memory wait issues its next read; the next read stands one poll on for the first
FULL_RATE polls, then spacings double up to the maximum. A TE sends no read past 48 operations (R257). A read that returns the value ends the wait (R216). -/
def Obligations.WaitsRun : Prop :=
  (∀ (c : CoreId) (e : Engine) (s : State) (ctx : Nat) (n : QEntry), fittedCore s c →
      let k := ck c
      let id := wf n.word 111 102
      let v := wf n.word 101 38
      let r := (s.core k).hw.regs
      (∀ x, s.head k e 0x12 = some (ctx, n) → (s.core k).ctr id = some x →
        (v ≤ x.val → ∃ t, exec (.wait c e) s = .next t ∧ coreOnly s t k ∧ ((t.core k).eng e).wait = none ∧ doneSeq t k e n.seq
          ∧ ((t.core k).ctr id).map Ctr.val = some x.val)
        ∧ (x.val < v → ∃ t, exec (.wait c e) s = .next t ∧ coreOnly s t k
          ∧ ((t.core k).eng e).wait = some ((⟨.counter, n.idx, id, v, wf n.word 37 6, 0, 0, 1, 1, x.val, false⟩ : Wait).plan r.full r.ctrMax)
          ∧ ((t.core k).ctr id).map Ctr.val = some x.val ∧ (t.core k).hw.retired = (s.core k).hw.retired))
      ∧ (∀ d s1, s.head k e 0x13 = some (ctx, n) → (s.core k).mayRead e = true → readDesc s k e (wf n.word 111 100) .word n = .ok d s1 →
          exec (.waitmem c e) s = .next (lightUse ((begin_ s1 k e n).onEng k e (fun y => { y with
            wait := some ((⟨.mem, n.idx, d.base, wf n.word 99 36, wf n.word 35 4, 0, 0, 1, 1, 0, true⟩ : Wait).plan r.full r.memMax) })) k e)))
  ∧ (∀ (c : CoreId) (e : Engine) (s : State) (ctx : Nat) (w : Wait), fittedCore s c → s.liveOn (ck c) = some ctx →
      ((s.core (ck c)).eng e).wait = some w →
      let k := ck c
      let r := (s.core k).hw.regs
      let w1 : Wait := { w with polls := hold 32 w.polls 1 }
      let put := fun (t : State) (v : Wait) => t.onEng k e (fun y => { y with wait := some v })
      (w.timeout = 0 ∨ w.polls < w.timeout →
        (w.kind = .barrier ∨ w1.polls < w.next ∨ w.kind = .mem ∧ (w.inFlight = true ∨ (s.core k).mayRead e = false) →
          exec (.waitPoll c e) s = .next (put s w1))
        ∧ (∀ x, w.kind = .counter → w.next ≤ w1.polls → (s.core k).ctr w.obj = some x →
            (w.expect ≤ x.val → e ≠ .cc → ∃ t, exec (.waitPoll c e) s = .next t ∧ coreOnly s t k ∧ ((t.core k).eng e).wait = none)
            ∧ (x.val < w.expect → exec (.waitPoll c e) s = .next (put s { w1.plan r.full r.ctrMax with last := x.val })))
        ∧ (w.kind = .mem → w.next ≤ w1.polls → w.inFlight = false → (s.core k).mayRead e = true →
            exec (.waitPoll c e) s = .next (lightUse (put s { w1.plan r.full r.memMax with inFlight := true }) k e)))
      ∧ (∀ fl v s1, w.kind = .mem → w.inFlight = true → readWord (s.plant fl) k e w = .val v s1 →
          (v < w.expect → exec (.waitmemReadReturn c e fl) s = .next (put s1 { w with inFlight := false, last := v }))
          ∧ (w.expect ≤ v → exec (.waitmemReadReturn c e fl) s = .next (endWait (put s1 { w with inFlight := false, last := v }) k e))))

/-- WAIT_TIMEOUT (R220, R221, R232) of a counter wait whose polls have reached its TIMEOUT: a value that has arrived
completes it unless the arbiter says it came late; else the wait ends, the queue is held and the first timeout is
captured. CORE.SYNC.HOLD releases the queues it names and nothing else (R221, R232). -/
def Obligations.WaitTimesOut : Prop :=
  ∀ (c : CoreId) (e : Engine) (s : State), fittedCore s c →
    let k := ck c
    (∀ ctx w x, s.liveOn k = some ctx → e ≠ .cc → ((s.core k).eng e).wait = some w → w.kind = .counter → w.timeout ≠ 0 →
      w.timeout ≤ w.polls → (s.core k).ctr w.obj = some x →
      (w.expect ≤ x.val → ∃ t, exec (.waitTimeout c e false) s = .next t ∧ coreOnly s t k ∧ ((t.core k).eng e).wait = none
        ∧ ((t.core k).eng e).held = ((s.core k).eng e).held)
      ∧ (∀ late, x.val < w.expect ∨ late = true → (s.core k).hw.regs.timeout.valid = false →
        ∃ t, exec (.waitTimeout c e late) s = .next t ∧ t = { s with cores := t.cores, sess := t.sess }
          ∧ ((t.core k).eng e).wait = none ∧ ((t.core k).eng e).held = true
          ∧ (t.core k).hw.regs.timeout = ⟨true, decide (w.expect ≤ x.val), eNum e, 0, w.idx⟩ ∧ (t.core k).hw.ctrs = (s.core k).hw.ctrs))
    ∧ (∀ mask, ∃ t, exec (.syncHoldRelease c mask) s = .next t ∧ coreOnly s t k ∧ (t.core k).hw = (s.core k).hw
        ∧ (t.core k).cx = { (s.core k).cx with
            ope := { (s.core k).cx.ope with held := (s.core k).cx.ope.held && !bit mask.toNat 0 }
            ve := { (s.core k).cx.ve with held := (s.core k).cx.ve.held && !bit mask.toNat 1 }
            te := { (s.core k).cx.te with held := (s.core k).cx.te.held && !bit mask.toNat 2 } })

/-- MADD (R215, R224, R253, R254, R257), no earlier writing command uncovered: of the OPE and the VE it adds at once: the 8 bytes
of the word take their sum with N modulo 2^64, no other byte of memory changes, and the command completes. Of a TE with fewer
than 48 operations outstanding it becomes one more, on the light path (log 66); its completion adds. -/
def Obligations.MaddAdds : Prop :=
  (∀ (c : CoreId) (e : Engine) (fl : Flaws) (s s1 : State) (ctx : Nat) (n : QEntry) (d : Desc) (pa o g : Nat), fittedCore s c →
    let k := ck c
    s.head k e 0x14 = some (ctx, n) → ((s.core k).eng e).uncovered = false → e ≠ .te →
    readDesc (s.plant fl) k e (wf n.word 111 100) .word n = .ok d s1 → locate s1 ctx d.base .atomic false = .at_ pa o g → realAddr s pa →
    ∃ t, exec (.madd c e fl) s = .next t ∧ doneSeq t k e n.seq ∧ memKept s t pa 8
      ∧ leNat (Mem.bytes t.mem pa 8) = (leNat (Mem.bytes s.mem pa 8) + wf n.word 99 36) % 2 ^ 64
      ∧ t.ctxs = s.ctxs ∧ t.parts = s.parts ∧ t.ports = s.ports)
  ∧ (∀ (c : CoreId) (fl : Flaws) (s s1 : State) (ctx : Nat) (n : QEntry) (d : Desc), fittedCore s c →
    let k := ck c
    s.head k .te 0x14 = some (ctx, n) → (s.core k).cx.te.uncovered = false → (s.core k).mayRead .te = true →
    readDesc (s.plant fl) k .te (wf n.word 111 100) .word n = .ok d s1 →
    ∃ t, exec (.madd c .te fl) s = .next t ∧ t = { s1 with cores := t.cores } ∧ (∀ j, j ≠ k → t.core j = s1.core j)
      ∧ (t.core k).hw.ops = (s1.core k).hw.ops ++ [⟨(s1.core k).hw.nextOp, ctx, n.seq, .madd d.base (wf n.word 99 36), .made, true, none, [], false, false⟩]
      ∧ (t.core k).hw.regs.flowLight = hold 24 (s1.core k).hw.regs.flowLight 1)
  ∧ (∀ (c : CoreId) (s : State) (o : TeOp) (va v pa ob g : Nat), fittedCore s c → s.trellis.applying = none →
    let k := ck c
    o.kind = .madd va v → o.dead = false → (s.ctx o.ctx).st ≠ .closing → opReady s k o false [(va, 8, .atomic)] → va % 64 ≤ 56 →
    locate s o.ctx va .atomic false = .at_ pa ob g → realAddr s pa →
    ∃ t, exec (.teOpComplete c o.id []) s = .next t ∧ o ∉ (t.core k).hw.ops ∧ memKept s t pa 8
      ∧ leNat (Mem.bytes t.mem pa 8) = (leNat (Mem.bytes s.mem pa 8) + v) % 2 ^ 64)

/-- BARRIER (R225, R226): a participant's arrival for round t is admitted while t ≤ R + 2 and completes at once, and rounds
complete as far as every participant has arrived, and a stalled arrival is admitted as R rises unless its cluster is halted
(R56); at t = R + 3 its queue waits with the barrier's kind.
STALL_SAMPLE (R228 to R230), while a cellar core runs CC-M2: with no queue waiting the samples are dropped, and a change of a
word awaited at the last sample is counted; a queue alone in a wait whose print has
stood for the context's window raises SYNC_STALL at its core. -/
def Obligations.BarriersAndStalls : Prop :=
  (∀ (c : CoreId) (e : Engine) (s : State) (ctx : Nat) (n : QEntry), fittedCore s c →
      let k := ck c
      let co := s.core k
      let x := s.part co.part
      let i := wf n.word 111 108
      let b := nth .empty x.barriers i
      let t := get 0 b.g co.lcore + 1
      s.head k e 0x15 = some (ctx, n) → (co.eng e).uncovered = false → b.valid = true → bit b.cores co.lcore = true →
      b.engine = eNum e →
      (t ≤ b.r + 2 → (∃ m ∈ b.members, m ≠ co.lcore ∧ get 0 b.g m ≤ b.r) →
        (∀ m ∈ b.stalled, m ≠ co.lcore ∧ (b.r + 2 < get 0 b.g m + 1 ∨ s.haltedAt (68 * (co.part / 8) + nth 0 x.phys m) = true)) → ∃ u, exec (.barrier c e) s = .next u
        ∧ u = { s with cores := u.cores, parts := u.parts } ∧ (∀ j, j ≠ k → u.core j = s.core j) ∧ doneSeq u k e n.seq
        ∧ ((u.core k).eng e).wait = (co.eng e).wait
        ∧ u.part co.part = { x with barriers := modNth x.barriers i (fun b => { b with g := put b.g co.lcore t }) })
      ∧ (t ≤ b.r + 2 → exec (.barrier c e) s = .next (settleBarrier co.part i 5 (finish ((begin_ s k e n).setPart co.part
          { x with barriers := modNth x.barriers i (fun b => { b with g := put b.g co.lcore t }) }) k e n.seq)))
      ∧ (b.r + 2 < t → exec (.barrier c e) s = .next (((begin_ s k e n).setPart co.part
          { x with barriers := modNth x.barriers i (fun b => { b with stalled := b.stalled ++ [co.lcore] }) }).onEng k e
            (fun y => { y with wait := some ⟨.barrier, n.idx, i, t - 2, 0, 0, 0, 1, 1, b.r, false⟩ }))))
  ∧ (∀ (d first : Nat) (s : State) (ctx : Nat), d < s.model.dies → first < 8 →
      let p := 8 * d + first
      (s.part p).resident = some ctx → (s.part p).st = .inService → roleUp s d 2 = true →
      (s.waits p = [] → exec (.stallSample d first) s = .next (s.setCtx ctx { s.ctx ctx with
          fp := [], words := [], wordMoves := (s.ctx ctx).wordMoves + b2n ((s.ctx ctx).words.any (fun w => wordNow s ctx w.1 != w.2)) }))
      ∧ (∀ lc e w since, s.waits p = [(lc, e, w)] →
          look (s.ctx ctx).fp (4 * lc + eNum e) = some (stallPrint (sampleWords s p ctx) p lc w, since) → since + (s.ctx ctx).stallWin ≤ (s.die d).time →
          nth 0 (s.part p).phys lc < 68 → (s.die d).reports.length < 256 →
          ∃ t, exec (.stallSample d first) s = .next t
            ∧ ∃ f ∈ (t.die d).reports, f.cls = 3 ∧ f.whereAt = w.idx ∧ f.unit = 1 + eNum e ∧ f.b = 1))
/-! ### Outer-product engine (chapters 03 and 05) -/

/-- OPLOAD, OPLOAD_LANDED and OPSWAP in solo grouping (R84, R85, R99, R100): a load takes the slot at READ for the shadow
bank, which is LOADING until its rows have landed; then it is LOADED with the slot's tag and tile, or with the tag saved with it when a switch loads it again (R111); a swap exchanges the
banks and empties the one that leaves. The mark of the run-time fault counters is log 18's only where a slot came late. -/
def Obligations.BanksLoadAndSwap : Prop :=
  ∀ (c : CoreId) (s : State), fittedCore s c → (s.core (ck c)).cx.arrs.length = 4 →
    let k := ck c
    let co := s.core k
    (∀ ctx n a i y, s.head k .ope 0x40 = some (ctx, n) → s.duoOf k = false → arraysOf false (wf n.word 111 108) = [a] →
      (co.ring (loadRing n.word a)).opeCause = 0 → (co.arr a).active ≤ 1 → (co.arr a).shadow.st = .empty →
      (co.ring (loadRing n.word a)).ready = some (i, y) → co.takes (loadRing n.word a) i = true →
      ∃ t, exec (.opload c) s = .next t ∧ coreOnly s t k
        ∧ (t.core k).arr a = (co.arr a).setBank (1 - (co.arr a).active)
            ⟨.loading, 0, loadRing n.word a, [i], bit n.word.toNat 85, bit n.word.toNat 87, n.seq, bit n.word.toNat 86, [], false⟩
        ∧ (t.core k).ring (loadRing n.word a) = (co.ring (loadRing n.word a)).advance)
    ∧ (∀ a ctx nb i, a < 4 → s.liveOn k = some ctx → (co.arr (arrOf (s.duoOf k) a)).landing = some nb →
        ((co.arr (arrOf (s.duoOf k) a)).bank nb).slots = [i] →
        let b := (co.arr (arrOf (s.duoOf k) a)).bank nb
        (nth .empty (co.ring b.ring).slots i).st = .valid →
        ∃ t, exec (.oploadLanded c a []) s = .next t ∧ coreOnly s t k
          ∧ ((t.core k).arr (arrOf (s.duoOf k) a)).bank nb = { b with
              st := .loaded, tag := if b.back then b.tag else (nth .empty (co.ring b.ring).slots i).tag, tiles := [co.tile b.ring i], back := false })
    ∧ (∀ ctx n a, s.head k .ope 0x41 = some (ctx, n) → arraysOf (s.duoOf k) (wf n.word 111 108) = [a] →
        ∃ t, exec (.opswap c) s = .next t ∧ coreOnly s t k ∧ doneSeq t k .ope n.seq
          ∧ (t.core k).arr a = { (co.arr a).setBank (co.arr a).active .empty with active := 1 - (co.arr a).active })

/-- OPRUN (R97, R99, R144), no earlier run on the arrays that ZERO names being unretired: a run starts at step 0; the accumulator tiles that ZERO names, and their flags, are cleared,
and every other tile stays.
PARTIAL_SUM_LANDED (R96, R148): the earliest sums in flight on an array are landed, each in its cell of the row or column;
the cells of every other array stay. -/
def Obligations.RunsStartAndLand : Prop :=
  (∀ (c : CoreId) (s : State) (ctx : Nat) (n : QEntry), fittedCore s c →
      let k := ck c
      let co := s.core k
      let zs := (arraysOf (s.duoOf k) (wf n.word 85 82)).flatMap (physArrs (s.duoOf k))
      s.head k .ope 0x42 = some (ctx, n) → (co.ring (wf n.word 91 87)).opeCause = 0 → (arraysOf (s.duoOf k) (wf n.word 85 82)).any (co.runOn (s.duoOf k)) = false →
      ∃ t, exec (.oprun c) s = .next t ∧ coreOnly s t k ∧ (t.core k).cx.run = some ⟨n.seq, 0, 0, 0, []⟩
        ∧ (∀ a, a ∈ zs → ((t.core k).arr a).cells = [] ∧ ((t.core k).arr a).flags = .none)
        ∧ (∀ a, a ∉ zs → ((t.core k).arr a).cells = (co.arr a).cells ∧ ((t.core k).arr a).flags = (co.arr a).flags)
        ∧ (∀ a, ((t.core k).arr a).b0 = (co.arr a).b0 ∧ ((t.core k).arr a).b1 = (co.arr a).b1))
  ∧ (∀ (c : CoreId) (s : State) (a : Nat) (f : Flight), fittedCore s c → a < 4 →
      let k := ck c
      let co := s.core k
      co.cx.arrs.length = 4 → co.ctx.isSome = true → s.haltedAt k = false → co.cx.flights.find? (fun f => f.arr == a) = some f →
      ∃ t, exec (.partialSumLanded c a) s = .next t ∧ coreOnly s t k ∧ (t.core k).cx.flights = co.cx.flights.erase f
        ∧ (∀ j u, f.sums[j]? = some u →
            let i := if f.isRow then f.at_ * 128 + j else j * 128 + f.at_
            get .zero ((t.core k).arr a).cells i = landCell (get .zero (co.arr a).cells i) u)
        ∧ ∀ b, b ≠ a → ((t.core k).arr b).cells = (co.arr b).cells)

/-- BEAT from an open broadcast slot (R58, R66, R86, R87, R95, R101, R103, R104, R111, R149), with no bank to load again after a
switch and no load that R101 has land first; its rate is that of the blocks of every array of the run. With every tag equal the beat's steps are done
on every array of the run, it counts as a work beat, and the run goes on until all its steps have issued; where a tag
differs, the OPE halts with those arrays, and CORE.OPE.SKEW captures the first. -/
def Obligations.BeatSteps : Prop :=
  ∀ (c : CoreId) (s : State) (ctx : Nat) (run : Run) (n : QEntry) (i taken : Nat), fittedCore s c →
    let k := ck c
    let co := s.core k
    let r := wf n.word 91 87
    let as := runArrs (s.duoOf k) n.word
    let t0 := co.tile r i
    let bad := mismatched co as (nth .empty (co.ring r).slots i).tag
    let m := beatSteps (fun j => stepRate t0 (bit n.word.toNat 86) (taken + j) (run.step + j)
      (as.map (fun a => (runMode n.word a, (co.arr a).act)))) (Nat.min (cnt 4096 (wf n.word 103 92) - run.step) (128 - taken))
    let steps := if m = 0 then (if run.quarter = 3 then 1 else 0) else m
    let freed := decide (128 ≤ taken + steps) && !bit n.word.toNat 81
    s.liveOn k = some ctx → co.cx.run = some run → co.cx.ope.q.find? (fun m => m.seq == run.seq) = some n →
    co.cx.halted = false → co.cx.ope.stopped = false → co.cx.arrs.any (fun a => a.b0.back || a.b1.back) = false →
    (s.die c.die).adm ≠ 0 → co.takes r i = true → co.owesLoad n.seq (run.step + steps) = false → look co.cx.bpos r = some (i, taken) → run.seen.contains i = true → as ≠ [] →
    (bad = [] → ∃ t, exec (.beat c []) s = .next t ∧ coreOnly s t k
      ∧ (t.core k).cx.arrs = ((beatWork s k (s.duoOf k) n run t0 taken steps as).core k).cx.arrs
      ∧ (t.core k).hw.regs.workBeats = co.hw.regs.workBeats + 1
      ∧ (run.step + steps < cnt 4096 (wf n.word 103 92) → (t.core k).cx.run = some { run with
          step := run.step + steps, beat := run.beat + 1, quarter := if m = 0 then (run.quarter + 1) % 4 else 0
          seen := if freed then run.seen.filter (· != i) else run.seen })
      ∧ (cnt 4096 (wf n.word 103 92) ≤ run.step + steps → (t.core k).cx.run = none))
    ∧ (∀ a rest, bad = a :: rest → co.hw.regs.skew.valid = false → ∃ t, exec (.beat c []) s = .next t
        ∧ t = { s with cores := t.cores, dies := t.dies } ∧ (t.core k).cx.halted = true ∧ (t.core k).cx.haltArr = bad
        ∧ (t.core k).hw.regs.skew = ⟨true, !rest.isEmpty, (co.arr a).act.st != .loaded, a, (co.arr a).act.tag,
            (nth .empty (co.ring r).slots i).tag, run.beat⟩)

/-- ACCREAD (R154 to R158, R166, R333), the runs on its array retired: the array's cells are read out, in row order, into the next slot of the output ring, which
is VALID with its tag, and poisoned when the array is tainted; no array changes. -/
def Obligations.ReadsOut : Prop :=
  ∀ (c : CoreId) (s : State) (ctx : Nat) (n : QEntry), fittedCore s c →
    let k := ck c
    let co := s.core k
    let duo := s.duoOf k
    let a := arrOf duo (wf n.word 111 110)
    let r := wf n.word 109 105
    let fmt := wf n.word 104 100
    let x := co.ring r
    let sh := readShape duo (co.arr a).isMode
    s.head k .ope 0x43 = some (ctx, n) → co.runOn duo a = false → x.fillable .ope = true →
    slotBytes fmt sh.1 sh.2 0 0 ≤ x.geom.slotLines * 64 → x.tailFree = true → fmt ∈ [0, 1, 3, 4] →
    ∃ t, exec (.accread c) s = .next t ∧ coreOnly s t k ∧ doneSeq t k .ope n.seq ∧ (t.core k).cx.arrs = co.cx.arrs
      ∧ nth .empty ((t.core k).ring r).slots x.tail = ⟨.valid, x.nextTag, fmt, sh.1, sh.2, (co.arr a).flags.taint, false, 0, 0, .made⟩
      ∧ (let bs := (List.range (sh.1 * sh.2)).flatMap (fun i => natLe (elemBytes fmt)
          (readOut fmt (wf n.word 91 90) (sx 8 (wf n.word 99 92)) (co.cellAt a (i / sh.2) (i % sh.2))).1)
         Mem.bytes (t.core k).hw.tstore (x.geom.line x.tail * 64) bs.length = bs)
      ∧ (t.core k).hw.regs.accLast = co.hw.regs.accLast.modify a (fun _ => (co.arr a).flags.code)

/-! ### Vector engine (chapters 04, 06 and 11) -/

/-- The rows of the VE that write slots (R180, R184, R202, R235, R236, R241, R251, R327): each, with its command begun and
its sources ready, fills the slot at TAIL of DST with what its command computes from the tiles at READ; each source's slot
is freed. An ADAMQ fills its second ring too. The last slot's counts are added through the
translation made when the command began (R142). A row whose head command may not begin stops the VE with its cause. -/
def Obligations.VectorRows : Prop :=
  ∀ (c : CoreId) (r : Nat × (CoreId → Flaws → Instr)) (s : State) (ctx : Nat) (n : QEntry), fittedCore s c → r ∈ veRows →
    let k := ck c
    let co := s.core k
    let w := n.word
    let x := co.ring (veDst w)
    let y := co.ring (veMout w)
    (∀ v d, veReady s k r.1 ctx n v d → veSettled co → (veSources w).Nodup →
      let o := veOutput co w d v
      (r.1 ≠ 0x8D → (x.partialRec = true → o.tile.bytes.length ≤ 65536) → ∃ t, exec (r.2 c []) s = .next t
        ∧ (let z := nth .empty ((t.core k).ring (veDst w)).slots x.tail
           z.st = .valid ∧ z.tag = x.nextTag ∧ z.fmt = o.tile.fmt ∧ z.rows = o.tile.rows ∧ z.cols = o.tile.cols ∧ z.axis = o.tile.axis)
        ∧ Mem.bytes (t.core k).hw.tstore (x.geom.line x.tail * 64) o.tile.bytes.length = o.tile.bytes
        ∧ (t.core k).cx.gens = o.gens ∧ (t.core k).cx.arrs = co.cx.arrs
        ∧ (v.tiles + 1 < veTiles w → t = { s with cores := t.cores, free := t.free } ∧ ∀ j, j ≠ k → t.core j = s.core j)
        ∧ (veTiles w ≤ v.tiles + 1 → (∀ p ∈ o.cmd.adds w, ∀ g h, objAt s v.place.1 (v.place.2 + p.1) .atomic ≠ .waits g h) →
          (t.core k).cx.veCmd = none))
      ∧ (∀ q, r.1 = 0x8D → o.moments = some q → y.tailFree = true → veMout w ≠ veDst w → x.partialRec = false → y.partialRec = false →
          ∃ t, exec (r.2 c []) s = .next t
            ∧ (nth .empty ((t.core k).ring (veDst w)).slots x.tail).st = .valid
            ∧ (nth .empty ((t.core k).ring (veMout w)).slots y.tail).st = .valid
            ∧ Mem.bytes (t.core k).hw.tstore (y.geom.line y.tail * 64) q.bytes.length = q.bytes
            ∧ (t.core k).hw.regs.trainSkipped = hold 32 co.hw.regs.trainSkipped (o.cmd.adam.1 - v.adam.1)))
    ∧ (∀ fl, co.cx.veCmd = none → s.head k .ve r.1 = some (ctx, n) → veCause co w ≠ 0 →
        exec (r.2 c fl) s = .next (stopUnit (s.plant (memFlaws fl)) k .ve (veCause co w) n.idx w))
    ∧ (∀ fl p h s1, co.cx.veCmd = none → s.head k .ve r.1 = some (ctx, n) → veCause co w = 0 → veMemory (s.plant (memFlaws fl)) k ctx n = .ok p h s1 →
        exec (r.2 c fl) s = exec (r.2 c (tsFlaws fl)) ((begin_ s1 k .ve n).onCx k (fun x => { x with veCmd := some ⟨n.seq, 0, p, .zero, (0, 0, 0), h, []⟩ })))

/-- VPAD starts N issues and reads and writes nothing (R202). In check mode a read of the next VE command of a line whose write
is pending is counted, the first is captured with its command and line, and the VE waits until that write has landed: 4 issue
periods of check mode after its issue started (R203, R204). -/
def Obligations.IssuesAndChecks : Prop :=
  ∀ (c : CoreId) (s : State), fittedCore s c →
    let k := ck c
    let co := s.core k
    (∀ ctx n, s.head k .ve 0x80 = some (ctx, n) → ∃ t, exec (.vpad c) s = .next t ∧ coreOnly s t k ∧ doneSeq t k .ve n.seq
        ∧ (t.core k).hw.issue = co.hw.issue + cnt 4096 (wf n.word 79 68) ∧ (t.core k).hw.tstore = co.hw.tstore
        ∧ (t.core k).cx.rings = co.cx.rings)
    ∧ (∀ line h, (s.liveOn k).isSome = true → co.cx.check = true →
        (∃ p ∈ co.veReads, (co.ring p.1).geom.line p.2 ≤ line ∧ line < (co.ring p.1).geom.line p.2 + (co.ring p.1).geom.slotLines) →
        co.hw.writes.filter (fun w => w.line == line && decide (co.hw.issue < w.issue + 4)) = [h] →
        exec (.veCheckHit c line) s = .next ((s.regs k (fun g => { g with check :=
          { valid := true, hits := hold 16 g.check.hits 1
            cmd := if g.check.valid then g.check.cmd else (nth 0 co.hw.retired 2 + 1) % 2 ^ 24
            line := if g.check.valid then g.check.line else line } })).onHw k (fun x => { x with
          writes := x.writes.filter (· != h), issue := h.issue + 4 })))

/-! ### Transfer engine (chapter 08) -/

/-- TFILL (R198, R236, R255 to R257): the slot at TAIL is claimed, FILLING, with the ring's next tag and the shape at its walk
cursor, which moves on by one tile, and an operation is issued. With MCAST a slot is claimed in every member's ring, all
with the tag of the filling core's ring. -/
def Obligations.FillsIssue : Prop :=
  ∀ (c : CoreId) (s : State) (ctx : Nat) (u : TeCmd) (b : Bound), fittedCore s c →
    let k := ck c
    let r := wf u.word 111 107
    let x := (s.core k).ring r
    let d := b.desc
    let h := d.shapeAt (d.at_ x.walk).2.2.1 (d.at_ x.walk).2.2.2
    let src := Source.walk d b.base x.walk
    let light := isLight (teCount u.word == 1) (walkRuns d b.base x.walk h.1 h.2)
    teTurn s k 0xC1 ctx u → x.bound = some b →
    (bit u.word.toNat 86 = false → x.tailFree = true → ∃ t, exec (.tfill c) s = .next t ∧ coreOnly s t k
      ∧ issued s t k ctx u (.fill r x.tail []) src light ∧ ((t.core k).ring r).walk = (x.walk + 1) % d.tiles
      ∧ nth .empty ((t.core k).ring r).slots x.tail = ⟨.filling, x.nextTag, d.fmt, h.1, h.2, false, d.axis, d.tailCap, d.promoCap, src⟩)
    ∧ (bit u.word.toNat 86 = false → x.tailFree = false → exec (.tfill c) s = .next s)
    ∧ (let g := wf u.word 85 80
       let ms := s.groupCores (s.core k).part g
       bit u.word.toNat 86 = true → ms.Nodup → (∀ m ∈ ms, ((s.core m).ring r).geom.valid = true ∧ ((s.core m).ring r).geom.prod = 0
          ∧ ((s.core m).ring r).geom.group = g ∧ ((s.core m).ring r).tailFree = true) →
       ∃ t, exec (.tfill c) s = .next t ∧ t = { s with cores := t.cores }
        ∧ issued s t k ctx u (.mcast r (ms.map (fun m => (m, ((s.core m).ring r).tail))) none) src light
        ∧ ∀ m ∈ ms, nth .empty ((t.core m).ring r).slots ((s.core m).ring r).tail
            = ⟨.filling, x.nextTag, d.fmt, h.1, h.2, false, d.axis, d.tailCap, d.promoCap, src⟩)

/-- TDRAIN and TPUT (R237, R238, R242, R370): the slot at READ goes to a store, or out as WRITE packets with the next PSNs of
its queue pair; READ and the walk cursor move on; the slot stays until the operation completes. Where TPUT lays its slots
is log 24. A TPUT of a queue pair in the error state, or of none, stops the queue of its TE (R214). -/
def Obligations.DrainsIssue : Prop :=
  ∀ (c : CoreId) (s : State) (ctx : Nat) (u : TeCmd) (b : Bound) (i : Nat) (y : Slot), fittedCore s c →
    let k := ck c
    let r := wf u.word 111 107
    let x := (s.core k).ring r
    let d := b.desc
    x.bound = some b → x.ready = some (i, y) → y.fmt = d.fmt →
    (teTurn s k 0xC2 ctx u → ∃ t, exec (.tdrain c) s = .next t ∧ t = { s with cores := t.cores, free := t.free }
      ∧ (t.core k).ring r = { x.advance with walk := (x.walk + 1) % d.tiles }
      ∧ issued s t k ctx u (.store r i) (.walk d b.base x.walk) (isLight (teCount u.word == 1)
          (walkRuns d b.base x.walk (storeShape d y x.walk).1 (storeShape d y x.walk).2)))
    ∧ (∀ rd p qpn, teTurn s k 0xC7 ctx u → u.d = some rd → look (s.ctx ctx).qps (rd.remote % 65536) = some (p, qpn) →
        let tile := (s.core k).tile r i
        let n := pad64 tile.bytes.length
        ∃ t, exec (.tput c []) s = .next t ∧ t = { s with cores := t.cores, free := t.free, ports := t.ports, out := t.out }
          ∧ (t.core k).ring r = { x.advance with walk := (x.walk + 1) % d.tiles }
          ∧ issued s t k ctx u (.put r i p qpn) .made (isLight (teCount u.word == 1) [(none, n, 0, false)])
          ∧ (∀ q, s.qp p qpn = some q → q.error = false →
            let ks := slotPkts q.mark q.mtu (bits rd.remote 47 16) ((rd.base + x.walk * n) % 2 ^ 52) k (s.core k).hw.nextOp
              (fit n tile.bytes) tile.bad
            (t.qp p qpn).map Qp.psnSend = some ((q.psnSend + ks.length) % 2 ^ 24)
              ∧ (t.qp p qpn).map (fun z => z.unacked.map SentPkt.data) = some (q.unacked.map SentPkt.data ++ ks.map SentPkt.data))
          ∧ ((∀ q, s.qp p qpn = some q → q.error = true) → (t.core k).cx.te.stopped = true))

/-- TGATHER and TSCATTER (R199, R200, R243): the next unit's index lines are read first, one operation each; when they have
returned, a gather claims the slot at TAIL and a scatter takes the slot at READ, and the operation carries the rows that
the indices name; of the rows that a scatter without ADD sends to one place a free value chooses one, the same in every tile
column (R201). -/
def Obligations.IndexedIssue : Prop :=
  ∀ (c : CoreId) (s : State) (ctx : Nat) (u : TeCmd) (b : Bound) (ix : Desc), fittedCore s c →
    let k := ck c
    let r := wf u.word 111 107
    let x := (s.core k).ring r
    let d := b.desc
    let v := ixUnit d u.word u.done
    let pos := u.pos + v.1
    let need := (indexLines ix pos v.2.1).filter (fun l => !u.lines.any (fun z => z.1 == l))
    let asked := (s.core k).hw.ops.filterMap (fun o => match o.kind with
      | .index l => if o.seq = u.seq ∧ o.ctx = ctx ∧ !o.dead then some l else none
      | _ => none)
    let rows := (resolve ix u.lines pos v.2.1 (if d.unitRec then d.tiles else d.dim1)).1
    x.bound = some b → u.d = some ix →
    (∀ op i, (op, i) ∈ [(0xC3, Instr.tgather c), (0xC4, .tscatter c)] → teTurn s k op ctx u →
      (∀ l, need.find? (fun l => !asked.contains l) = some l → ∃ t, exec i s = .next t ∧ coreOnly s t k
        ∧ issued s t k ctx u (.index l) .made false ∧ (t.core k).cx.rings = (s.core k).cx.rings)
      ∧ (need ≠ [] → need.find? (fun l => !asked.contains l) = none → exec i s = .next s))
    ∧ (teTurn s k 0xC3 ctx u → need = [] → x.tailFree = true → ∃ t, exec (.tgather c) s = .next t ∧ coreOnly s t k
        ∧ issued s t k ctx u (.fill r x.tail rows) (.gather d ix b.base pos v.2.1 v.2.2) (ixLight d u.word)
        ∧ (nth .empty ((t.core k).ring r).slots x.tail).st = .filling)
    ∧ (∀ i y, teTurn s k 0xC4 ctx u → need = [] → x.ready = some (i, y) → y.fmt = d.fmt →
        ∃ t, exec (.tscatter c) s = .next t ∧ t = { s with cores := t.cores, free := t.free }
          ∧ issued s t k ctx u (.scatter r i (if bit u.word.toNat 86 then rows else oneOf (if v.2.2 = 0 then s.free else u.pick) rows)
            (bit u.word.toNat 86)) (.gather d ix b.base pos v.2.1 v.2.2) (ixLight d u.word)
          ∧ (t.core k).ring r = x.advance)

/-- TCOPY, TZERO and TRED issue their next segment or hand-over, and RE-ARM binds its ring (R181, R198, R245, R257, R401): no
slot of a ring moves, and a transfer of 256 bytes or less is light (R253); a TRED whose tensor is no gradient of the bucket stops its
TE (R401); a RE-ARM with NEXT on the same handle steps BASE by the layer stride. -/
def Obligations.PlainIssue : Prop :=
  ∀ (c : CoreId) (s : State) (ctx : Nat) (u : TeCmd), fittedCore s c →
    let k := ck c
    (∀ a b l, teTurn s k 0xC5 ctx u → u.d = some a → u.d2 = some b →
      let to_ : Desc := { b with orderRows := a.orderRows }
      to_.segments[u.done]? = some l → ∃ t, exec (.tcopy c) s = .next t ∧ coreOnly s t k
        ∧ (t.core k).cx.rings = (s.core k).cx.rings
        ∧ issued s t k ctx u (.copy (((nth [] a.segments u.done).zip l).map (fun p => (p.1.1, p.2.1, p.2.2)))) .made
            (decide ((to_.units.map Prod.snd).sum ≤ 256)))
    ∧ (∀ b l, teTurn s k 0xC6 ctx u → u.d = none → u.d2 = some b → b.segments[u.done]? = some l → ∃ t, exec (.tzero c) s = .next t
        ∧ coreOnly s t k ∧ (t.core k).cx.rings = (s.core k).cx.rings
        ∧ issued s t k ctx u (.zero l) .made (decide ((b.units.map Prod.snd).sum ≤ 256)))
    ∧ (∀ p i b d, teTurn s k 0xC8 ctx u → tredReady s ctx u.word = some (p, i, b) → u.d = some d →
        let fits := ((s.coll p i).bind (fun c => (c.bucket b).map (d.gradOf c))).getD false
        (fits = false → exec (.tred c) s = .next (stopUnit s k .te 3 u.idx u.word))
        ∧ (fits = true → ∃ t, exec (.tred c) s = .next t ∧ coreOnly s t k ∧ (t.core k).cx.rings = (s.core k).cx.rings
          ∧ issued s t k ctx u (.tred p i b) .made (decide (d.count * elemBytes d.fmt ≤ 256))))
    ∧ (∀ d r, teNext s k 0xC0 ctx u → u.d = some d → d.ring = some r → ((s.core k).ring r).geom.valid = true →
        let h := wf u.word 111 100
        let x := (s.core k).ring r
        ∃ t, exec (.reArm c) s = .next t ∧ coreOnly s t k ∧ ((t.core k).ring r).slots = x.slots ∧ ((t.core k).ring r).walk = 0
          ∧ ((t.core k).ring r).nextTag = (if bit u.word.toNat 91 then wf u.word 99 92 else d.tagBase)
          ∧ (∀ b, x.bound = some b → bit u.word.toNat 90 = true → b.handle = h →
              ((t.core k).ring r).bound = some ⟨h, d, b.base + d.layerStride⟩)
          ∧ (bit u.word.toNat 90 = false → ((t.core k).ring r).bound = some ⟨h, d, d.base⟩))

/-- TE_OP_COMPLETE (R236, R238, R251, R257): a fill makes its slot VALID with the bytes read; a store that is the last to read
its slot frees it; a zero
or a copy within a line writes exactly its bytes; the operation is gone, or it waits for a translation that is missing.
XLATE_MISS_FILL brings in the first one missing (R263). -/
def Obligations.OperationsComplete : Prop :=
  ∀ (c : CoreId) (s : State) (o : TeOp), fittedCore s c → s.trellis.applying = none →
    let k := ck c
    let gone := fun (t : State) => o ∉ (t.core k).hw.ops
    (∀ r i rows, o.kind = .fill r i rows → o.dead = false → i < ((s.core k).ring r).slots.length →
      let y := nth .empty ((s.core k).ring r).slots i
      let rs := o.src.runs y.rows y.cols rows
      opReady s k o true (runAccs rs .read) → ∃ t, exec (.teOpComplete c o.id []) s = .next t ∧ gone t ∧ t.mem = s.mem
        ∧ (nth .empty ((t.core k).ring r).slots i).st = .valid
        ∧ (let bs := (readRuns (touchAll s (s.core k).die (s.core k).cluster o.ctx (runAccs rs .read) o.got) (s.core k).cluster o.ctx
              (slotBytes y.fmt y.rows y.cols y.tailCap y.promoCap) rs).1
           Mem.bytes (t.core k).hw.tstore (((s.core k).ring r).geom.line i * 64) bs.length = bs))
    ∧ (∀ r i d base cur, o.kind = .store r i → o.src = .walk d base cur →
        let y := nth .empty ((s.core k).ring r).slots i
        y.st = .valid → (∀ x ∈ (s.core k).hw.ops, x.id ≠ o.id → x.reads r i = false) → opReady s k o true (runAccs (walkRuns d base cur (storeShape d y cur).1 (storeShape d y cur).2) .write) →
        ∃ t, exec (.teOpComplete c o.id []) s = .next t ∧ gone t ∧ (nth .empty ((t.core k).ring r).slots i).st = .free)
    ∧ (∀ va n pa ob g, o.kind = .zero [(va, n)] → 0 < n → va % 64 + n ≤ 64 → opReady s k o true [(va, n, .write)] →
        locate s o.ctx va .write true = .at_ pa ob g → realAddr s pa →
        ∃ t, exec (.teOpComplete c o.id []) s = .next t ∧ gone t ∧ memKept s t pa n ∧ Mem.bytes t.mem pa n = zeros n)
    ∧ (∀ a b n pa pb oa ob ga gb, o.kind = .copy [(a, b, n)] → 0 < n → a % 64 + n ≤ 64 → b % 64 + n ≤ 64 →
        opReady s k o true [(a, n, .read), (b, n, .write)] → locate s o.ctx a .read true = .at_ pa oa ga →
        locate s o.ctx b .write true = .at_ pb ob gb → realAddr s pa → realAddr s pb →
        ∃ t, exec (.teOpComplete c o.id []) s = .next t ∧ gone t ∧ memKept s t pb n
          ∧ Mem.bytes t.mem pb n = Mem.bytes s.mem pa n)
    ∧ (∀ va n w, o.kind = .zero [(va, n)] → (s.core k).hw.ops.find? (fun x => x.id == o.id) = some o → o.refused = false →
        o.waits = none → s.haltedAt k = false → probeRun s (s.core k).die (s.core k).cluster o.ctx va n .write true o.got = .miss w →
        exec (.teOpComplete c o.id []) s = .next (s.onOp k o.id (fun x => { x with waits := some w })))
    ∧ (∀ va w, (s.core k).hw.ops = [o] → (s.core k).cluster < 8 → (s.cluster c.die (s.core k).cluster).halted = false → o.waits = some va →
        (∀ j, j ≠ k → (s.core j).hw.ops = []) → rising s.cores = true →
        (s.ctx o.ctx).windows.find? (fun w => w.has va) = some w →
        ∃ t, exec (.xlateMissFill c.die (s.core k).cluster) s = .next t ∧ t = { s with cores := t.cores, clusters := t.clusters }
          ∧ (t.core k).hw.ops = [{ o with waits := none, got := va :: o.got }] ∧ xlHit t c.die (s.core k).cluster o.ctx va = true)

/-! ### Memory (chapter 09) -/

/-- CREATE, FREE, MAP, UNMAP, QUERY (R262, R266, R268 to R275, R285): a created object takes its frames and is cleared before
its request completes; FREE and UNMAP remove what nothing uses; MAP adds its window and the object's MAPS; QUERY returns
the record. CREATE is executed on the boot die (R426); which frames and number it takes is log 10, a home die past the listed fields is
log 27. -/
def Obligations.ObjectRequests : Prop :=
  ∀ (n : Nat) (s : State) (r : Taken),
    let f := field r.fields
    let home := if f 8 1 = 0 then s.fw.bootDie else f 8 1 - 1
    (asked s n 0x0101 r → ∀ i fs, f 0 1 < 4 → f 1 1 ≠ 0 → 0 < f 4 4 → f 4 4 ≤ 2 ^ 22 → home < s.model.dies →
      s.fenced home = false → leastFree s.objs (home * 2 ^ 17) (2 ^ 17) = some i →
      allocate s home (f 1 1) (f 4 4) (f 0 1 == 0) = some fs →
      rackBusy s home (2 * (maskList (f 1 1)).headD 0 + i % 2) < 8 →
      ∃ t, exec (.create n) s = .next t ∧ t.mem = s.mem ∧ t.cores = s.cores
        ∧ ∃ o, look t.objs i = some o ∧ o.granules = f 4 4 ∧ o.policy = f 0 1 ∧ o.clusters = f 1 1 ∧ o.pins = 0 ∧ o.maps = 0
          ∧ o.work = some .zero ∧ o.ready = false ∧ r.uid ∈ o.finish
          ∧ o.grans.map (fun e => if f 0 1 = 0 then e.near else e.far) = fs)
    ∧ (asked s n 0x0102 r → ∀ o, s.fenced (f 0 4 / 2 ^ 17) = false → s.obj (f 0 4) = some o →
        (o.maps = 0 → o.pins = 0 → o.work = none → o.queue = [] → ∃ t, exec (.free n) s = .next t
          ∧ t = { s with objs := del s.objs (f 0 4), taken := t.taken, sess := t.sess } ∧ completes s t r 0 [])
        ∧ (o.maps ≠ 0 ∨ o.pins ≠ 0 → ∃ t, exec (.free n) s = .next t
          ∧ t = { s with taken := t.taken, sess := t.sess } ∧ completes s t r 2 []))
    ∧ (asked s n 0x0103 r →
        let w : Window := ⟨f 8 8, f 24 4, f 16 8, f 4 4, bit (f 28 1) 0, bit (f 28 1) 1, bit (f 28 1) 2⟩
        s.ctxNamed (f 0 2) = true → s.fenced (w.obj / 2 ^ 17) = false → windowOk s w = true →
        (s.ctx (f 0 2)).windows.length < 4096 →
        ((∀ v ∈ (s.ctx (f 0 2)).windows, v.meets w = false) → ∃ t, exec (.map n) s = .next t ∧ completes s t r 0 []
          ∧ t = { s with ctxs := t.ctxs, objs := t.objs, taken := t.taken, sess := t.sess }
          ∧ (∀ v, v ∈ (t.ctx (f 0 2)).windows ↔ v = w ∨ v ∈ (s.ctx (f 0 2)).windows)
          ∧ (look t.objs w.obj).map Obj.maps = (look s.objs w.obj).map (fun o => o.maps + 1))
        ∧ ((∃ v ∈ (s.ctx (f 0 2)).windows, v.meets w = true) → ∃ t, exec (.map n) s = .next t ∧ completes s t r 8 []
          ∧ t = { s with taken := t.taken, sess := t.sess }))
    ∧ (asked s n 0x0104 r → ∀ w, s.ctxNamed (f 0 2) = true →
        (s.ctx (f 0 2)).windows.find? (fun w => w.base == f 8 8) = some w →
        (windowUsed s (f 0 2) w = true → exec (.unmap n) s = .next s)
        ∧ (windowUsed s (f 0 2) w = false → ∃ t, exec (.unmap n) s = .next t ∧ completes s t r 0 []
          ∧ t = { s with ctxs := t.ctxs, objs := t.objs, clusters := t.clusters, taken := t.taken, sess := t.sess }
          ∧ (∀ v ∈ (t.ctx (f 0 2)).windows, v.base ≠ f 8 8) ∧ (look t.objs w.obj).map Obj.maps = (look s.objs w.obj).map (fun o => o.maps - 1)
          ∧ ∀ x ∈ t.clusters, (f 0 2, w.base) ∉ x.2.winCache))
    ∧ (asked s n 0x0108 r → ∀ o, s.fenced (f 0 4 / 2 ^ 17) = false → s.obj (f 0 4) = some o →
        exec (.query n) s = .next (result s r (f 8 8) (o.record (f 0 4)))
        ∧ ((∀ off k, argsAt s r.sess off k = none) → ∃ t, exec (.query n) s = .next t ∧ completes s t r 21 []))

/-- PROMOTE, EVICT, FLUSH, RACK_OP_DONE and RACK_RESET (R276, R279, R281 to R284, R287): a promotion of a NEAR object only
pins it; the last unpin starts its demotion; a FLUSH of a dirty object starts its write-back; a completed promotion has
copied its granule, a completed clear has zeroed it, and no other byte of memory changes; a reset of an engine moves no
byte. An engine takes a request when it works on fewer than 8 objects (R276). The order among kinds of racking is log 26. -/
def Obligations.RackingWorks : Prop :=
  ∀ (n : Nat) (s : State) (r : Taken),
    let f := field r.fields
    (∀ o, asked s n 0x0105 r → s.ctxNamed (f 0 2) = true → s.fenced (f 4 4 / 2 ^ 17) = false → s.obj (f 4 4) = some o → o.policy = 2 →
      o.st = 2 → o.queue = [] → o.work = none → o.todo = [] → pinLimit s (f 0 2) (f 4 4) = false → rackBusy s (f 4 4 / 2 ^ 17) o.engine < 8 →
      ∃ t, exec (.promote n) s = .next t ∧ t.mem = s.mem ∧ pinsOf t (f 0 2) (f 4 4) = pinsOf s (f 0 2) (f 4 4) + 1
        ∧ (look t.objs (f 4 4)).map Obj.pins = some (o.pins + 1) ∧ ∀ u ∈ t.taken, u.uid ≠ r.uid)
    ∧ (∀ o, asked s n 0x0106 r → s.ctxNamed (f 0 2) = true → s.fenced (f 4 4 / 2 ^ 17) = false → s.obj (f 4 4) = some o → o.policy = 2 →
        o.st = 2 → o.queue = [] → o.work = none → o.todo = [] → 0 < o.granules → pinsOf s (f 0 2) (f 4 4) = 1 → o.pins = 1 →
        rackBusy s (f 4 4 / 2 ^ 17) o.engine < 8 →
        ∃ t, exec (.evict n) s = .next t ∧ t.mem = s.mem ∧ pinsOf t (f 0 2) (f 4 4) = 0
          ∧ ∃ x, look t.objs (f 4 4) = some x ∧ x.st = 3 ∧ x.work = some .demote ∧ x.pins = 0 ∧ x.finish = [r.uid])
    ∧ (∀ o, asked s n 0x0107 r → s.fenced (f 0 4 / 2 ^ 17) = false → s.obj (f 0 4) = some o → o.policy = 2 → o.queue = [] → rackBusy s (f 0 4 / 2 ^ 17) o.engine < 8 →
        (o.st = 0 → o.work = none → o.todo = [] → ∃ t, exec (.flush n) s = .next t ∧ t.mem = s.mem ∧ ∀ u ∈ t.taken, u.uid ≠ r.uid)
        ∧ (o.st = 2 → o.work = none → o.todo = [] → (∃ g e, g < o.granules ∧ o.grans[g]? = some e ∧ e.dirty ≠ 0) →
          ∃ t, exec (.flush n) s = .next t ∧ t.mem = s.mem
            ∧ ∃ x, look t.objs (f 0 4) = some x ∧ x.st = 2 ∧ x.work = some .flush ∧ x.finish = [r.uid]))
    ∧ (∀ i g o e, look s.objs i = some o → i / 2 ^ 17 < s.model.dies → o.engine < 16 → s.fenced (i / 2 ^ 17) = false → g ∈ o.live → g ∉ o.todo →
        o.grans[g]? = some e → o.queue = [] → (∀ p ∈ s.ports, ∀ q ∈ p.2.qps, q.2.held = []) → s.owed = [] →
        (o.work = some .promote → realAddr s (farAddr i e.far) → realAddr s (nearAddr i e.near) →
          ∃ t, exec (.rackOpDone (i / 2 ^ 17) o.engine i g []) s = .next t ∧ memKept s t (nearAddr i e.near) 65536
            ∧ (∀ b, b < 65536 → Mem.byte t.mem (nearAddr i e.near + b) = Mem.byte s.mem (farAddr i e.far + b))
            ∧ ∃ x z, look t.objs i = some x ∧ x.grans[g]? = some z ∧ z.st = .near ∧ z.dirty = 0 ∧ z.near = e.near ∧ z.far = e.far)
        ∧ (o.work = some .zero →
          let a := if o.policy = 0 then nearAddr i e.near else farAddr i e.far
          realAddr s a → ∃ t, exec (.rackOpDone (i / 2 ^ 17) o.engine i g []) s = .next t ∧ memKept s t a 65536
            ∧ ∀ b, b < 65536 → Mem.byte t.mem (a + b) = 0))
    ∧ (∀ d e, d < s.model.dies → e < 16 → ∃ t, exec (.rackReset d e) s = .next t ∧ t.mem = s.mem ∧ t.cores = s.cores
        ∧ Due.l1rack d e ∉ t.due)

/-- PATROL_SCRUB, MEM_ERRORS_CLEAR, SPARE_BANK_COPY_DONE (R290 to R292, R506, R513): a scrubber that does not pause reads its channel's
next line, and one that does leaves all as it is; an uncorrectable error found there (one stands there since, or the row brings it; log 65) poisons the line, is counted at its channel and waits as one ECC_UE; a write
clears one channel's counts; a bank's copy done
applies its entry. -/
def Obligations.ErrorsHandled : Prop :=
  ∀ (s : State) (d k : Nat), d < s.model.dies →
    (∀ far i f, i < (if far then 16 else 8) → s.fenced d = true ∨ (s.die d).dramOn = false ∨ s.fw.stopping = true ∨
        clearing s d (if far then i / 2 else i) = true → exec (.patrolScrub d ⟨far, i⟩ f) s = .next s)
    ∧ (∀ far i, i < (if far then 16 else 8) → s.fenced d = false → (s.die d).dramOn = true → s.fw.stopping = false →
      clearing s d (if far then i / 2 else i) = false →
      let n := (s.die d).scrubbed far i
      let line := scrubLine d far i n
      (∀ p ∈ s.latent, p.1 ≠ line) →
      exec (.patrolScrub d ⟨far, i⟩ none) s = .next (s.setDie d (if far then { s.die d with scrubFar := put (s.die d).scrubFar i (n + 1) }
        else { s.die d with scrubNear := put (s.die d).scrubNear i (n + 1) }))
      ∧ (get false s.bad line = false → (s.die d).reports.length < 256 → ∃ t, exec (.patrolScrub d ⟨far, i⟩ (some .ue)) s = .next t
          ∧ t = { s with clusters := t.clusters, dies := t.dies, bad := t.bad, latent := t.latent } ∧ get false t.bad line = true ∧ look t.latent line = none
          ∧ (t.die d).scrubbed far i = n + 1
          ∧ (if far then (get ⟨0, 0, 0⟩ (t.die d).far i).ue = hold 16 (get ⟨0, 0, 0⟩ (s.die d).far i).ue 1
             else (t.cluster d i).near.ue = hold 16 (s.cluster d i).near.ue 1)
          ∧ (t.die d).reports = (s.die d).reports ++ [{ Fault64.blank with
              ctx := 0xFFFF, cls := 6, die := d, unit := if far then 10 else 9, index := i, whereAt := line * 64, a := b2n far
              time := (s.die d).time }]))
    ∧ (k < 8 → exec (.memErrorsClear d false k) s = .next (s.setCluster d k { s.cluster d k with near := ⟨0, 0, 0⟩ }))
    ∧ (k < 16 → exec (.memErrorsClear d true k) s = .next (s.setDie d { s.die d with far := put (s.die d).far k ⟨0, 0, 0⟩ }))
    ∧ (∀ bank e, k < 8 → (s.cluster d k).copying.contains bank = true →
        s.maps.find? (fun e => e.kind == 5 && e.die == d && e.unit == k && e.sub == bank && e.st == 0) = some e → s.maps.length ≤ 2048 →
        (∀ p ∈ s.latent, tierOf (64 * p.1) = .near d k → Config.nearBank (64 * p.1) ≠ bank) →
        ∃ t, exec (.spareBankCopyDone d k bank) s = .next t ∧ t.mem = s.mem ∧ bank ∉ (t.cluster d k).copying
          ∧ { e with st := 1 } ∈ t.maps ∧ bit t.i3c.alert 3 = true)

/-! ### Trellis, partitions, contexts (chapter 10) -/

/-- TRELLIS_APPLY and APPLY_QUIESCE_TIMEOUT (R301 to R304): an image that fails a check changes nothing but the last result,
which the answer carries with the offset of what failed; a module image that passes replaces the partitions and routes,
and its digest is kept; an apply that misses its bound is abandoned with result 10. -/
def Obligations.TrellisApplies : Prop :=
  ∀ (n : Nat) (s : State) (r : Taken),
    (asked s n 0x0301 r → (validate s r.fields).1 ≠ 0 → ∃ t, exec (.trellisApply n) s = .next t
      ∧ t = { s with trellis := { s.trellis with result := (validate s r.fields).1, scope := scopeOf r.fields % 2 }, taken := t.taken, sess := t.sess }
      ∧ completes s t r 16 (natLe 1 (validate s r.fields).1 ++ zeros 7 ++ natLe 8 (validate s r.fields).2))
    ∧ (asked s n 0x0301 r → (validate s r.fields).1 = 0 → scopeOf r.fields = 0 → ∃ t, exec (.trellisApply n) s = .next t
        ∧ t.trellis.applied = true ∧ t.trellis.digest = slice r.fields 0x20 64 ∧ t.trellis.routes = routeDefs r.fields
        ∧ t.trellis.result = 0 ∧ t.mem = s.mem ∧ (∀ u ∈ t.taken, u.uid ≠ r.uid)
        ∧ ∀ p, (look t.parts p).isSome = true ↔ ∃ q ∈ partDefs r.fields, p = 8 * q.1 + q.2.1)
    ∧ (∀ d f k b, s.trellis.applying = some (d, f, k, b) → ∃ t, exec .applyQuiesceTimeout s = .next t ∧ t.trellis.applying = none
        ∧ t.trellis.result = 10 ∧ t.trellis.routes = s.trellis.routes ∧ t.mem = s.mem ∧ t.ctxs = s.ctxs
        ∧ ∀ p ∈ affected s d f k, (s.part p).st = .inClearing → Due.l2 (p / 8) (p % 8) ∉ s.due → (t.part p).st = .inService)

/-- CTX_SCHEDULE, CTX_SET, CTX_QUERY, QUEUE_RELEASE, CTX_DESTROY, CTX_ABORT and CTX_CREATE (R221, R306 to R310, R319, R444, R475,
R532). The places of CTX_CREATE's fields are log 28; the cause of the event of a requested abort is log 31. -/
def Obligations.ContextRequests : Prop :=
  ∀ (n : Nat) (s : State) (r : Taken),
    let f := field r.fields
    (asked s n 0x0202 r → s.hasPart (f 0 1) = true → f 4 1 ≤ 2 → (look s.ctxs (f 2 2)).isSome = true → s.fenced (f 2 2 / 1024) = false →
      (s.ctx (f 2 2)).st = .stopped → (s.ctx (f 2 2)).part = f 0 1 → (s.part (f 0 1)).st = .inService → (s.part (f 0 1)).leaving = false →
      ∃ t, exec (.ctxSchedule n) s = .next t
        ∧ (t.part (f 0 1)).sw = some ⟨some (f 2 2), f 4 1, some r.uid, false⟩ ∧ (t.part (f 0 1)).resident = (s.part (f 0 1)).resident
        ∧ t.mem = s.mem ∧ t.ctxs = s.ctxs
        ∧ (f 4 1 = 1 → ∀ k ∈ s.partCores (f 0 1), (t.core k).cx.cc.quiesceReq = true))
    ∧ (asked s n 0x0203 r → ∀ w, s.ctxNamed (f 0 2) = true → stallOf (f 4 4) = some w → ∃ t, exec (.ctxSet n) s = .next t
        ∧ t = { s with ctxs := t.ctxs, dies := t.dies, taken := t.taken, sess := t.sess } ∧ completes s t r 0 []
        ∧ t.ctx (f 0 2) = { s.ctx (f 0 2) with next := some (bit (f 2 1) 0, w) })
    ∧ (asked s n 0x0204 r → ∀ x, look s.ctxs (f 0 2) = some x → s.fenced (f 0 2 / 1024) = false →
        exec (.ctxQuery n) s = .next (result s r (f 8 8) (x.record (f 0 2) (outstanding s (f 0 2))))
        ∧ ((∀ off k, argsAt s r.sess off k = none) → ∃ t, exec (.ctxQuery n) s = .next t ∧ completes s t r 21 []))
    ∧ (asked s n 0x0206 r → ∀ x,
        let p := (s.ctx (f 0 2)).part
        let k := 68 * (p / 8) + x
        s.fenced (f 0 2 / 1024) = false → (s.part p).phys[f 2 1]? = some x → (s.ctx (f 0 2)).st = .resident → (s.part p).resident = some (f 0 2) →
        bit (f 3 1) 0 = true → (s.core k).cx.ope.held = true → ∃ t, exec (.queueRelease n) s = .next t ∧ completes s t r 0 []
          ∧ t = { s with cores := t.cores, taken := t.taken, sess := t.sess } ∧ (t.core k).cx.ope.held = false ∧ ∀ j, j ≠ k → t.core j = s.core j)
    ∧ (asked s n 0x0205 r → ∀ x, look s.ctxs (f 0 2) = some x → s.fenced (f 0 2 / 1024) = false → x.st ≠ .free → x.st ≠ .closing →
        (∀ q ∈ x.colls, ∀ c, s.coll q.2.1 q.2.2 = some c → ∀ b ∈ c.buckets, b.active = false ∨ b.complete = false) →
        switching s (f 0 2) = false → ∃ t, exec (.ctxDestroy n) s = .next t ∧ (t.ctx (f 0 2)).st = .closing ∧ (t.ctx (f 0 2)).uid = some r.uid
          ∧ (t.ctx (f 0 2)).closedAt = (if underL2 s (f 0 2) then 0 else (s.die (f 0 2 / 1024)).time) ∧ t.mem = s.mem
          ∧ ∀ k ∈ t.keys, k.2.owner = .ctx (f 0 2) → k.2.live = false)
    ∧ (asked s n 0x0207 r → ∀ x, look s.ctxs (f 0 2) = some x → s.fenced (f 0 2 / 1024) = false → x.st ≠ .free → x.st ≠ .closing →
        x.st ≠ .aborted → (s.part x.part).resident ≠ some (f 0 2) →
        (∀ q ∈ x.colls, ∀ c, s.coll q.2.1 q.2.2 = some c → ∀ b ∈ c.buckets, b.active = false ∨ b.complete = false) →
        (∀ q ∈ x.colls, ∀ c ∈ s.cores, ∀ o ∈ c.2.hw.ops, ∀ b, o.kind ≠ .tred q.2.1 q.2.2 b) →
        (∀ q ∈ x.qps, ∀ c ∈ s.cores, c.2.putsOn q.2.1 q.2.2 = false) → ∃ t, exec (.ctxAbort n) s = .next t ∧ t.mem = s.mem ∧ t.cores = s.cores
          ∧ (t.ctx (f 0 2)).st = .aborted ∧ Due.l0 (f 0 2) ∉ t.due ∧ (∀ u ∈ t.taken, u.uid ≠ r.uid)
          ∧ ∀ k ∈ t.keys, k.2.owner = .ctx (f 0 2) → k.2.wr = false ∧ k.2.at_ = false)
    ∧ (asked s n 0x0201 r → ∀ i,
        let b := r.fields
        let y := s.part (f 0 1)
        let x := { argCtx b r.sess (b2n y.duo) y.clusters with stream := y.stream }
        let ws := argWindows (b.drop 112)
        s.hasPart (f 0 1) = true → y.st ≠ .fenced → leastFree s.ctxs (1024 * (f 0 1 / 8)) 1024 = some i →
        (stallOf (f 16 4)).isSome = true → x.descLen ≠ 0 → x.descLen ≤ 4096 → ws.length ≤ 4096 →
        (∀ j v w, ws[j]? = some v → ws[j + 1]? = some w → v.base + v.granules * 65536 ≤ w.base) → (∀ w ∈ ws, windowOk s w = true) →
        inNear s ws x.cmdRings (64 * (8 * y.clusters)) = true → inNear s ws x.descTable (64 * x.descLen) = true →
        inNear s ws x.counters (8192 * (8 * y.clusters)) = true → inNear s ws x.barVa 1024 = true → inNear s ws x.diag 65536 = true →
        (x.ringVa ≠ 0 → inNear s ws x.ringVa (512 * (8 * y.clusters)) = true) →
        (∀ j, j < y.clusters → saveOk s (f 0 1) j (nth 0 x.save j) = true) →
        badTable (ws.foldl (fun (s : State) w => addWindow s i w) (s.setCtx i x)) (f 0 1) i x.ringVa = none →
        ∃ t, exec (.ctxCreate n) s = .next t ∧ (t.ctx i).st = .stopped ∧ (t.ctx i).part = f 0 1 ∧ (t.ctx i).seed = f 8 8
          ∧ (t.ctx i).sess = r.sess ∧ (t.ctx i).ins = 0 ∧ t.cores = s.cores ∧ (∀ u ∈ t.taken, u.uid ≠ r.uid)
          ∧ ∀ w, w ∈ (t.ctx i).windows ↔ w ∈ ws)

/-- CONTEXT_SWITCH, SPARE_FORCED_SWITCH, QUIESCE_FALLBACK, TEARDOWN_COMPLETE and TEARDOWN_ESCALATE (R310, R314, R316, R319 to R321, R323, R458,
R504): no cluster of the partition halted (R56) and CC-M0 of its die up (R450), a switch onto an idle partition makes its context
resident, counts an instance, and completes its request; a teardown with nothing outstanding frees the record and what it mapped;
one escalated answers ESCALATED. The order of its steps in an escalation is log 60. -/
def Obligations.SwitchesAndTeardowns : Prop :=
  ∀ (s : State),
    (∀ d first last drain c m uid bg, d < s.model.dies → first < 8 → let p := 8 * d + first
      s.hasPart p = true → (s.part p).st = .inService → (s.part p).sw = some ⟨some c, m, uid, bg⟩ → (s.part p).resident = none →
      (s.ctx c).st = .stopped → roleUp s d 0 = true → partHalted s p = false →
      (switchIn (s.setPart p { s.part p with sw := none }) p c true).1 = 0 →
      ∃ t, exec (.contextSwitch d first last drain) s = .next t ∧ (t.part p).resident = some c ∧ (t.part p).sw = none
        ∧ (t.ctx c).st = .resident ∧ (t.ctx c).ins = (s.ctx c).ins + 1 ∧ (t.ctx c).saved = [] ∧ t.mem = s.mem
        ∧ (t.part p).count = hold 32 (s.part p).count 1 ∧ (t.part p).last = Nat.min 0xFFFF last)
    ∧ (∀ d first last drain, d < s.model.dies → first < 8 → s.hasPart (8 * d + first) = true → (s.part (8 * d + first)).sw = none →
        exec (.contextSwitch d first last drain) s = .next s)
    ∧ (∀ d first t0 c, d < s.model.dies → first < 8 → let p := 8 * d + first
        (s.part p).spareDue = some t0 → (s.part p).resident = some c → (s.part p).st = .inService → t0 + 1500000000 ≤ (s.die d).time →
        let s1 := drainOps (s.setPart p { s.part p with forced := true }) p c
        (s.ctx c).st = .resident → partHalted s p = false → drained s1 p c = true → roleUp s1 d 0 = true →
        ((switchOut s1 p c).ctx c).st = .stopped → (switchIn (switchOut s1 p c) p c true).1 = 0 →
        ∃ t, exec (.spareForcedSwitch d first) s = .next t ∧ (t.part p).resident = some c ∧ (t.part p).spareDue = none
          ∧ (t.ctx c).st = .resident)
    ∧ (∀ c t0 bg, let p := (s.ctx c).part
        let b := (s.partCores p).foldl (fun (s : State) k => s.onCC k (fun x => { x with boundary := true })) s
        let s1 := drainOps (b.setPart p { b.part p with forced := true }) p c
        (s.ctx c).leaseQuiesce = some t0 → (s.ctx c).st = .resident → (s.part p).resident = some c → partHalted s p = false →
        t0 + 125000000 ≤ (s.die s.fw.bootDie).time → drained s1 p c = true → roleUp s1 (p / 8) 0 = true → (s.part p).sw = some ⟨none, 1, none, bg⟩ →
        (∀ k ∈ s.partCores p, ∀ e ∈ [(b.core k).cx.ope, (b.core k).cx.ve, (b.core k).cx.te],
          e.stopped = true ∨ e.held = true ∨ ∀ m ∈ e.q, m.st = .begun → blocks m.word = true) →
        ∃ t, exec (.quiesceFallback c) s = .next t ∧ ((t.ctx c).st = .retained ∨ (t.ctx c).st = .aborted)
          ∧ (t.part p).resident = none ∧ (t.part p).sw = none)
    ∧ (∀ c x, look s.ctxs c = some x → x.st = .closing → x.pins = [] → x.windows = [] → (s.part x.part).resident ≠ some c →
        (outstanding s c = 0 → (x.escalated = true → underL2 s c = false) → ∃ t, exec (.teardownComplete c) s = .next t
          ∧ look t.ctxs c = none ∧ t.mem = s.mem
          ∧ t.objs = mapAll s.objs (fun _ o => if o.serves = c then { o with serves := 0xFFFF } else o)
          ∧ ∀ r, x.uid = some r.uid → s.taken.find? (fun u => u.uid == r.uid) = some r →
              completes s t r (if x.escalated then 15 else 0) [])
        ∧ (x.escalated = false → x.evicted = false → 0 < outstanding s c →
          exec (.teardownComplete c) s = .next s
          ∧ (s.fenced (c / 1024) = false → underL2 s c = false → x.closedAt + 5000 ≤ (s.die (c / 1024)).time → rackUse s c = [] →
            portUse s c = [] → (∀ p ∈ s.ports, p.2.holdsFor c = false ∧ p.2.inbound c = 0) →
            ∃ t, exec (.teardownEscalate c) s = .next t ∧ look t.ctxs c = none ∧ t.mem = s.mem
              ∧ (∀ k o, o ∈ (t.core k).hw.ops → o.ctx ≠ c)
              ∧ ∀ r, x.uid = some r.uid → s.taken.find? (fun u => u.uid == r.uid) = some r → completes s t r 15 [])))

/-! ### Ports (chapter 12) -/

/-- Frames and link events of a port (R353 to R358, R360, R374, R375, R396, R465 class 7): rates are tried in turn, lock makes the
port up and sends what waits for nothing else, its loss tries again; ARP, ND and ICMP questions for its own addresses are
answered, with no packet of more than 9,000 bytes of IP (R358); a neighbour's packet tells its link address, and what waited for
that leaves (R355; log 81); every frame counts the FEC codewords before it; a dropped frame counts once under its cause, a
replayed one nowhere (log 81); PFC pauses and resumes one priority. Only the port, its outputs and the reports change. The
priorities' shares of the buffer are log 33. -/
def Obligations.PortFrames : Prop :=
  ∀ (p : Nat) (s : State), p < s.model.ports →
    let x := s.port p
    let plain := fun (t : State) => t = { s with ports := t.ports, out := t.out }
    (x.trying = true → portOn s p = true →
      (x.rate < 2 → exec (.portRateAttempt p) s = .next (s.setPort p { x with attempts := hold 8 x.attempts 1, rate := x.rate + 1 }))
      ∧ (2 ≤ x.rate → (s.die (portDie p)).reports.length < 256 → ∃ t, exec (.portRateAttempt p) s = .next t
        ∧ t = { s with ports := t.ports, dies := t.dies } ∧ t.port p = { x with attempts := hold 8 x.attempts 1, rate := x.start }
        ∧ (t.die (portDie p)).reports = (s.die (portDie p)).reports ++ [{ Fault64.blank with
            cls := 7, die := portDie p, unit := 12, index := p, a := 1, time := (s.die (portDie p)).time }])
      ∧ (∀ lanes, ∃ t, exec (.portLock p lanes) s = .next t ∧ plain t ∧ (t.port p).up = true ∧ (t.port p).trying = false
        ∧ (t.port p).attempts = 0 ∧ (t.port p).lanes = lanes.toNat &&& rateLanes x.rate
        ∧ ∀ w ∈ (t.port p).waiting, w ∈ x.waiting ∧ (t.port p).ready w.1 w.2.1 = false))
    ∧ (x.up = true →
      exec (.portLockLoss p) s = .next (s.setPort p { x with up := false, trying := true, lanes := 0, downs := hold 16 x.downs 1 })
      ∧ (∀ a : Arrival, ∀ e : Bool, let y := x.heard a e
          y = { x with fecCorr := hold 32 x.fecCorr a.corr, fecUncorr := hold 16 x.fecUncorr a.uncorr, dIcv := y.dIcv, dUnsup := y.dUnsup, macsec := y.macsec }
          ∧ (y.dIcv = if x.gate a e = .icv then hold 16 x.dIcv 1 else x.dIcv) ∧ (y.dUnsup = if x.gate a e = .unkeyed then hold 16 x.dUnsup 1 else x.dUnsup)
          ∧ (x.gate a e = .unkeyed ↔ x.macsec = none ∧ a.macsec = true)
          ∧ ∀ k, x.macsec = some k →
            (x.gate a e = .icv ↔ (a.macsec = true ∧ a.icvOk = false) ∨ (a.macsec = false ∧ e = false))
            ∧ (x.gate a e = .replay ↔ a.macsec = true ∧ a.icvOk = true ∧ a.pn ≤ k.got)
            ∧ (y.macsec.map (fun m => m.got) = some (if a.macsec = true ∧ x.gate a e = .take then a.pn else k.got)))
      ∧ (∀ src target : BitVec 128, ∀ bs, ∀ a : Arrival,
          let heard := fun (e : Bool) => (s.setPort p (x.heard a e)).packets p 1
          let knows := look x.neigh (x.hop src.toNat) = some a.mac.toNat
          let answers := fun (h : State) (r : Res) (o : Out) => knows → (x.clear 0 = true → r = .next ((h.carry p 0 src.toNat o).packets p 1))
            ∧ (x.clear 0 = false → r = .next (h.setPort p { h.port p with waiting := (h.port p).waiting ++ [(0, src.toNat, o)] }))
          let r4 := fun (ans : Bool) => exec (.arpReceived p ⟨src, ans, a⟩ target) s
          let r6 := fun (ans : Bool) => exec (.ndReceived p ⟨src, ans, a⟩ target) s
          let re := exec (.icmpEcho p src target ⟨bs, a⟩) s
          let told := fun (r : Res) => ∃ t, r = .next t ∧ plain t ∧ look (t.port p).neigh (x.hop src.toNat) = some a.mac.toNat
            ∧ ∀ w ∈ (t.port p).waiting, w ∈ x.waiting ∧ (t.port p).ready w.1 w.2.1 = false
          (x.gate a true ≠ .take → ∀ ans, r4 ans = .next (s.setPort p (x.heard a true)) ∧ r6 ans = .next (s.setPort p (x.heard a true)))
          ∧ (x.gate a false ≠ .take → re = .next (s.setPort p (x.heard a false)))
          ∧ (x.gate a true = .take →
            (port4 s p = some target.toNat → answers (heard true) (r4 false) (.arp p src.toNat) ∧ (knows → r4 true = .next (heard true)) ∧ (¬knows → told (r4 true)))
            ∧ (port4 s p ≠ some target.toNat → ∀ ans, r4 ans = .next (heard true))
            ∧ (ownAddr s p target.toNat = true → v4Mapped target.toNat = false →
              answers (heard true) (r6 false) (.nd p src.toNat) ∧ (knows → r6 true = .next (heard true)) ∧ (¬knows → told (r6 true)))
            ∧ (ownAddr s p target.toNat = false → ∀ ans, r6 ans = .next (heard true)))
          ∧ (x.gate a false = .take → (ownAddr s p target.toNat = true → echoLen src.toNat bs ≤ 9000 → answers (heard false) re (.echo p src.toNat bs))
            ∧ (ownAddr s p target.toNat = false ∨ 9000 < echoLen src.toNat bs → knows → re = .next (heard false))))
      ∧ (∀ fr : Sys2Proof.Frame,
          let top := 9216 + (if fr.tags = 1 then 4 else 0) + (if fr.arr.macsec then 32 else 0)
          let r := exec (.frameDropped p fr) s
          let h := s.setPort p (x.heard fr.arr fr.exempt)
          (top < fr.len ∨ 1 < fr.tags → r = .next (s.setPort p { x with
            fecCorr := hold 32 x.fecCorr fr.arr.corr, fecUncorr := hold 16 x.fecUncorr fr.arr.uncorr, dOver := hold 16 x.dOver 1 }))
          ∧ (fr.len ≤ top → fr.tags ≤ 1 →
            (x.gate fr.arr fr.exempt ≠ .take → r = .next h)
            ∧ (x.gate fr.arr fr.exempt = .take →
              (fr.supported = false ∨ fr.len < 64 → r = .next (h.setPort p { h.port p with dUnsup := hold 16 x.dUnsup 1 }))
              ∧ (fr.supported = true → 64 ≤ fr.len → x.lossless fr.prio = false → 2097152 < x.occupied fr.prio + fr.len →
                  r = .next (h.setPort p { h.port p with dBuf := hold 16 x.dBuf 1 }))
              ∧ (fr.supported = true → 64 ≤ fr.len → x.lossless fr.prio = true ∨ x.occupied fr.prio + fr.len ≤ 2097152 → r = .next h))))
      ∧ (∀ prio, prio < 8 →
          (∀ q : BitVec 16, q ≠ 0 → exec (.pfcReceived p prio q) s = .next (s.setPort p { x with
            paused := put x.paused prio q.toNat, pfcRx := hold 16 x.pfcRx 1 }))
          ∧ (∃ t, exec (.pfcReceived p prio 0) s = .next t ∧ plain t ∧ (t.port p).paused = del x.paused prio)
          ∧ (x.xoff.contains prio = true → exec (.pfcRefresh p prio) s = .next ((s.setPort p { x with
              pfcTx := hold 16 x.pfcTx 1 }).emit (.pfc p prio 0xFFFF)))
          ∧ (∃ t, exec (.pfcPauseExpiry p prio) s = .next t ∧ plain t ∧ (t.port p).paused = del x.paused prio)))
    ∧ (∀ prio, get 0 x.paused prio ≠ 0 → (s.die (portDie p)).reports.length < 256 → ∃ t, exec (.pfcPauseLong p prio) s = .next t
        ∧ t = { s with dies := t.dies }
        ∧ (t.die (portDie p)).reports = (s.die (portDie p)).reports ++ [{ Fault64.blank with
            cls := 7, die := portDie p, unit := 12, index := p, a := 2, time := (s.die (portDie p)).time }])

/-- Inbound RoCEv2 requests (R224, R358, R361, R363, R364, R366, R368, R369, R371, R437). On a live queue pair of a context or of a
session, the packet whose PSN comes next, with a key that opens its bytes, completes: a WRITE stores exactly its bytes, and its
last packet or one that asks for it is acknowledged; a READ is answered with the bytes in packets of the path MTU; a
FETCH_AND_ADD adds to 8 bytes and answers what stood there; an operation that the module does not serve is answered NAK
(invalid). The PSN moves on by what the request takes. A gap is answered NAK (sequence) with the PSN expected, a packet seen before an ACK, a key
that does not open the bytes NAK (access), a queue pair in the error state NAK (operational, or access while its context is
torn down): none of these reads or writes memory. A number of no queue pair counts and is not answered. A frame that the port
does not take reaches no queue pair (R375). The next hop of the queue pair's far end is known (R355), and no error stands in the
lines accessed (R290), where a clause does not bring one. -/
def Obligations.InboundRequests : Prop :=
  ∀ (p : Nat) (k : RocePkt) (s : State), p < s.model.ports → (s.port p).up = true →
    let x := s.port p
    let plain := fun (fl : Flaws) (t : State) => t = { s.plant fl with ports := t.ports, out := t.out }
    let moves := fun (t : State) => t = { s with mem := t.mem, bad := t.bad, latent := t.latent, objs := t.objs, clusters := t.clusters, dies := t.dies, ports := t.ports, out := t.out }
    let recv := fun (t : State) => (t.qp p k.qpn).map Qp.psnRecv
    let answers := fun (t : State) (o : List Out) => k.ce = false → x.clear 2 = true → t.out = s.out ++ o
    let heard := fun (fl : Flaws) => (((s.plant fl).setPort p (x.heard k.arr false)).packets p 1)
    (x.gate k.arr false ≠ .take → ∀ fl, exec (.roceInboundWrite p k fl) s = .next ((s.plant fl).setPort p (x.heard k.arr false)))
    ∧ (∀ fl, x.gate k.arr false = .take → s.qp p k.qpn = none →
      exec (.roceInboundWrite p k fl) s = .next ((heard fl).setPort p { (heard fl).port p with unknown := hold 16 x.unknown 1 }))
    ∧ (∀ q, x.gate k.arr false = .take → s.qp p k.qpn = some q → look x.neigh (x.hop q.remoteIp) = some k.arr.mac.toNat → q.psnRecv < 2 ^ 24 →
      let acked := if k.last || k.ackReq then [Out.ack p q.remoteQpn k.psn] else []
      let next := some ((q.psnRecv + 1) % 2 ^ 24)
      (q.error = false → k.psn = q.psnRecv →
        (∀ op, ∃ t, exec (.roceInboundUnsupported p k op) s = .next t ∧ plain [] t ∧ recv t = some q.psnRecv
          ∧ answers t [.nak p q.remoteQpn k.psn .invalid])
        ∧ (q.held = [] → ∀ c pa o g, keyOwner s k.key = .ctx c → realAddr s pa → (∀ f ∈ s.latent, f.1 ≠ pa / 64) →
          (0 < k.data.length → k.va % 64 + k.data.length ≤ 64 → k.mask = [] → keyOk s q.owner q.mid k.key k.va k.data.length .write = true →
            locate s c k.va .write false = .at_ pa o g → needsReset s (.ctx c) k.va k.data.length .write = false →
            (∃ t, exec (.roceInboundWrite p k []) s = .next t ∧ moves t ∧ memKept s t pa k.data.length
              ∧ Mem.bytes t.mem pa k.data.length = k.data ∧ recv t = next ∧ answers t acked)
            ∧ (∀ fl, ∃ t, exec (.roceInboundWrite p k fl) s = .next t ∧ recv t = next))
          ∧ (0 < k.len → k.va % 64 + k.len ≤ 64 → keyOk s q.owner false k.key k.va k.len .read = true → q.mtu ≠ 0 → k.len ≤ q.mtu →
            locate s c k.va .read false = .at_ pa o g → needsReset s (.ctx c) k.va k.len .read = false →
            (∃ t, exec (.roceInboundRead p k []) s = .next t ∧ moves t ∧ t.mem = s.mem ∧ t.objs = s.objs
              ∧ recv t = next ∧ answers t [.readData p q.remoteQpn k.psn (Mem.bytes s.mem pa k.len)])
            ∧ (∀ fl, ∃ t, exec (.roceInboundRead p k fl) s = .next t ∧ recv t = next))
          ∧ (k.va % 8 = 0 → keyOk s q.owner false k.key k.va 8 .atomic = true → locate s c k.va .atomic false = .at_ pa o g →
            needsReset s (.ctx c) k.va 8 .atomic = false →
            let old := leNat (Mem.bytes s.mem pa 8)
            (∃ t, exec (.roceInboundFetchAdd p k []) s = .next t ∧ moves t ∧ memKept s t pa 8
              ∧ leNat (Mem.bytes t.mem pa 8) = (old + k.add) % 2 ^ 64 ∧ recv t = next
              ∧ answers t [.atomicData p q.remoteQpn k.psn old])
            ∧ (∀ fl, ∃ t, exec (.roceInboundFetchAdd p k fl) s = .next t ∧ recv t = next)))
        ∧ (q.held = [] → ∀ i y, keyOwner s k.key = .rings i → look s.sess i = some y → k.va < 0x10000000 → q.owner ≠ .boot →
          (spaceOk k.va k.data.length true = true → keyOk s q.owner q.mid k.key k.va k.data.length .write = true → ∀ fl,
            ∃ t, exec (.roceInboundWrite p k fl) s = .next t ∧ t = { s.plant fl with sess := t.sess, ports := t.ports, out := t.out }
              ∧ look t.sess i = some { y with space := Mem.setBytes y.space k.va k.data } ∧ recv t = next ∧ answers t acked)
          ∧ (spaceOk k.va k.len false = true → keyOk s q.owner false k.key k.va k.len .read = true → ∀ fl,
            ∃ t, exec (.roceInboundRead p k fl) s = .next t ∧ plain fl t ∧ recv t = some ((q.psnRecv + psnSpan q 1 k) % 2 ^ 24)
              ∧ answers t (q.readResponse p k.psn (Mem.bytes y.space k.va k.len)))))
      ∧ (∀ fl, (∀ gap, q.error = false → 0 < gap → gap < 2 ^ 23 → k.psn = (q.psnRecv + gap) % 2 ^ 24 → ∃ t, exec (.roceInboundWrite p k fl) s = .next t ∧ plain fl t
          ∧ recv t = some q.psnRecv ∧ (t.port p).seqNak = hold 16 x.seqNak 1 ∧ answers t [.nak p q.remoteQpn q.psnRecv .seq])
        ∧ (∀ back, q.error = false → 0 < back → back ≤ 2 ^ 23 → (k.psn + back) % 2 ^ 24 = q.psnRecv → k.psn < 2 ^ 24 → ∃ t, exec (.roceInboundWrite p k fl) s = .next t
          ∧ plain fl t ∧ recv t = some q.psnRecv ∧ answers t [.ack p q.remoteQpn ((q.psnRecv + 2 ^ 24 - 1) % 2 ^ 24)])
        ∧ (q.error = false → k.psn = q.psnRecv → keyOk s q.owner q.mid k.key k.va k.data.length .write = false → ∃ t, exec (.roceInboundWrite p k fl) s = .next t
          ∧ plain fl t ∧ recv t = some q.psnRecv ∧ (t.port p).accNak = hold 16 x.accNak 1 ∧ answers t [.nak p q.remoteQpn k.psn .access])
        ∧ (q.error = true → q.closing s = false ∨ q.mid = false → ∃ t, exec (.roceInboundWrite p k fl) s = .next t ∧ plain fl t ∧ recv t = some q.psnRecv
          ∧ answers t [.nak p q.remoteQpn k.psn (if q.closing s then .access else .operational)])))

/-- A queue pair as requester (R361, R362, R365, R371): an ACK takes off the packets it acknowledges; a sequence NAK and a timeout
resend the rest and use one retry, and with none left the pair enters the error state; an RNR NAK waits, and the wait's end
resends; any other NAK ends the pair; a CNP cuts the rate by its share and a quiet period raises it, never above the line
rate; an ACK or a NAK marked CE is answered with a CNP too. The port takes the frame, and it knows the next hop (R355, R375). Rates are counted as log 35 says. -/
def Obligations.RequesterEvents : Prop :=
  ∀ (p qpn : Nat) (s : State) (q : Qp), p < s.model.ports → s.qp p qpn = some q → s.trellis.applying = none →
    let x := s.port p
    let plain := fun (t : State) => t = { s with ports := t.ports, out := t.out }
    let sent := q.unacked.map (fun y => y.wire p q.remoteQpn)
    let ends := fun (r : Res) => ∃ t, r = .next t ∧ t = { s with ports := t.ports, dies := t.dies, cores := t.cores, out := t.out }
      ∧ (t.qp p qpn).map Qp.error = some true
    let now := (s.die (portDie p)).time
    ((∀ t, q.rateSince = some t → t + 25 * x.stepUs ≤ now) → exec (.qpRateIncrease p qpn) s = .next (s.onQp p qpn (fun q =>
      { q with rate := Nat.min 32768 (q.rate + 256), rateSince := some now })))
    ∧ (q.error = false → q.rnrWait = true → q.rnr = 7 ∨ 0 < q.rnrLeft → ∃ t, exec (.qpRnrRetry p qpn) s = .next t ∧ plain t
        ∧ (t.qp p qpn).map Qp.rnrWait = some false ∧ t.out = if x.ready 2 q.remoteIp then s.out ++ sent else s.out)
    ∧ (q.error = false → q.rnrWait = true → q.rnr ≠ 7 → q.rnrLeft = 0 → ends (exec (.qpRnrRetry p qpn) s))
    ∧ (q.error = false → q.rnrWait = false → q.unacked.any SentPkt.onWire = true →
        (0 < q.retriesLeft → ∃ t, exec (.qpAckTimeout p qpn) s = .next t ∧ plain t
          ∧ (t.qp p qpn).map Qp.retriesLeft = some (q.retriesLeft - 1) ∧ t.out = if x.ready 2 q.remoteIp then s.out ++ sent else s.out)
        ∧ (q.retriesLeft = 0 → ends (exec (.qpAckTimeout p qpn) s)))
    ∧ (x.up = true → ∀ a : Arrival, x.gate a false = .take → look x.neigh (x.hop q.remoteIp) = some a.mac.toNat →
      (∀ us, ∃ t, exec (.roceCnpReceived p qpn ⟨us, a⟩) s = .next t ∧ plain t ∧ t.out = s.out ∧ (t.port p).cnpRx = hold 16 x.cnpRx 1
        ∧ (t.qp p qpn).map Qp.rateSince = some (some now)
        ∧ (q.lastCut = none → (t.qp p qpn).map Qp.rate = some (Nat.max 128 (q.rate * (64 - x.cut) / 64)))
        ∧ (∀ c, q.lastCut = some c → us < c + x.holdUs → (t.qp p qpn).map Qp.rate = some q.rate))
      ∧ (q.error = false → ∀ psn ce,
        let hit := fun (at_ : Nat) (y : SentPkt) => y.onWire && decide ((at_ + 2 ^ 24 - y.psn) % 2 ^ 24 < 2 ^ 23)
        let before := (psn + 2 ^ 24 - 1) % 2 ^ 24
        (∃ t, exec (.roceAckReceived p qpn ⟨psn, ce, a⟩) s = .next t ∧ t = { s with ports := t.ports, cores := t.cores, out := t.out }
          ∧ (t.qp p qpn).map Qp.unacked = some (q.unacked.filter (fun y => !hit psn y))
          ∧ (ce = false → t.out = s.out)
          ∧ (ce = true → q.lastCnpTx = none → x.clear 1 = true → t.out = s.out ++ [.cnp p q.remoteQpn] ∧ (t.port p).cnpTx = hold 16 x.cnpTx 1))
        ∧ (q.unacked.any (hit before) = false →
          let nak := fun (kind : NakKind) => exec (.roceNakReceived p qpn ⟨psn, ce, a⟩ kind) s
          (∃ t, nak .rnr = .next t ∧ plain t ∧ (t.qp p qpn).map Qp.rnrWait = some true ∧ (ce = false → t.out = s.out))
          ∧ (0 < q.retriesLeft → ∃ t, nak .seq = .next t ∧ plain t
            ∧ (t.qp p qpn).map Qp.retriesLeft = some (q.retriesLeft - 1) ∧ (ce = false → t.out = if x.ready 2 q.remoteIp then s.out ++ sent else s.out))
          ∧ (q.retriesLeft = 0 → ends (nak .seq))
          ∧ ∀ kind, kind ≠ .seq → kind ≠ .rnr → ends (nak kind))))

/-- QP_CREATE, QP_DESTROY, KEY_CREATE, KEY_DESTROY and PORT_CONFIG (R356, R365 to R367): a queue pair stands under its number and
handle until it is destroyed, a key under its generation and entry until it is destroyed, a port takes the addresses of its
request. The places of the fields are log 36; the entry taken is log 10. -/
def Obligations.PortRequests : Prop :=
  ∀ (n : Nat) (s : State) (r : Taken),
    let f := field r.fields
    (asked s n 0x0402 r → ∀ e,
      let c := f 0 2
      let p := f 2 1
      s.ctxNamed c = true → portFitted s p = true → (s.port p).role = 3 → f 4 2 < 4096 → f 45 1 ≤ 31 → f 48 4 ≤ 7 → f 52 4 ≤ 7 → f 44 1 ≤ 1 →
      f 32 4 < 2 ^ 24 → f 36 4 < 2 ^ 24 → f 40 4 ∈ [1024, 2048, 4096] → look (s.ctx c).qps (f 4 2) = none → freeQp s p = some e →
      ∃ t qpn psn q, exec (.qpCreate n) s = .next t ∧ completes s t r 0 (natLe 4 qpn ++ natLe 4 psn)
        ∧ t = { s with ports := t.ports, ctxs := t.ctxs, taken := t.taken, sess := t.sess, free := t.free } ∧ qpn % 4096 = e
        ∧ t.qp p qpn = some q ∧ look (t.ctx c).qps (f 4 2) = some (p, qpn) ∧ q.owner = .ctx c ∧ q.psnSend = psn ∧ q.psnRecv = f 36 4
        ∧ q.remoteQpn = f 32 4 ∧ q.mtu = f 40 4 ∧ q.mark = (f 44 1 == 1) ∧ q.retries = f 48 4 ∧ q.rnr = f 52 4 ∧ q.error = false
        ∧ q.unacked = [])
    ∧ (asked s n 0x0403 r → ∀ p qpn, s.ctxNamed (f 0 2) = true → look (s.ctx (f 0 2)).qps (f 2 2) = some (p, qpn) →
        ∃ t, exec (.qpDestroy n) s = .next t ∧ completes s t r 0 [] ∧ t.qp p qpn = none ∧ look (t.ctx (f 0 2)).qps (f 2 2) = none
          ∧ t = { s with cores := t.cores, ports := t.ports, ctxs := t.ctxs, taken := t.taken, sess := t.sess, out := t.out })
    ∧ (asked s n 0x0404 r → ∀ e, s.ctxNamed (f 0 2) = true → f 16 4 ≠ 0 → f 16 4 % 64 = 0 → f 8 8 + f 16 4 ≤ 2 ^ 52 → freeKey s = some e →
        ∃ t key, exec (.keyCreate n) s = .next t ∧ completes s t r 0 (natLe 4 key) ∧ key % 65536 = e
          ∧ t = { s with keys := t.keys, taken := t.taken, sess := t.sess }
          ∧ look t.keys e = some ⟨key / 65536, .ctx (f 0 2), f 8 8, f 16 4, bit (f 20 1) 0, bit (f 20 1) 1, bit (f 20 1) 2, true⟩
          ∧ ∀ j, j ≠ e → look t.keys j = look s.keys j)
    ∧ (asked s n 0x0405 r → ∀ k c, look s.keys (f 0 4 % 65536) = some k → k.live = true → k.gen = f 0 4 / 65536 → k.owner = .ctx c → c ≠ 0xFFFF →
        ∃ t, exec (.keyDestroy n) s = .next t ∧ completes s t r 0 [] ∧ t = { s with keys := t.keys, taken := t.taken, sess := t.sess }
          ∧ ∀ own va len a, keyOk t own false (f 0 4) va len a = false)
    ∧ (asked s n 0x0401 r → portFitted s (f 0 1) = true → (s.port (f 0 1)).role ≠ 0 → (s.port (f 0 1)).v4 = none → (s.port (f 0 1)).v6 = none →
        let done := fun (y : Port) => ∃ t, exec (.portConfig n) s = .next t ∧ completes s t r 0 []
          ∧ t = { s with ports := t.ports, taken := t.taken, sess := t.sess } ∧ t.port (f 0 1) = y
        (f 1 1 = 4 → 0 < f 4 2 → f 4 2 ≤ 4094 → done { s.port (f 0 1) with vlan := some (f 4 2) })
        ∧ (f 1 1 = 1 → 0 < f 2 1 → f 2 1 ≤ 32 → samePrefix (f 16 16) (f 32 16) (96 + f 2 1) 128 = true →
            done { s.port (f 0 1) with v4 := some (f 16 16, f 2 1, f 32 16), vlan := none }))

/-! ### Sessions (chapter 12) -/

/-- HOST_HELLO, HOST_PROOF, the proof's timeout, CLOSE, the proof lock's end and an idle boot session (R381, R385, R387, R389 to
R391, R394, R395, R461): a HELLO in an admitted mode is answered with MODULE_CERT and MODULE_PROOF and leaves one attempt, in a mode
not admitted with REFUSE; a good proof opens a session under the next ID and clears the failures of its own mode, any other is refused and opens none; CLOSE ends
the session or, without UNLOAD, is taken as lease expiry. The role of an accepted session follows R387. -/
def Obligations.SessionsBeginAndEnd : Prop :=
  ∀ (m : Datagram) (s : State),
    let ip := m.src.toNat
    let b := m.body
    let tells := fun (t : State) (p : Nat) (l : List (Nat × Bytes)) => t.out = s.out ++ l.map (fun x => Out.sess p ip x.1 x.2)
    (listens s m.port = true → msgOk m 1 = true → b.length = 1268 → (∀ a ∈ s.attempts, a.ip ≠ ip) → (s.port m.port).ready 0 ip = true →
      (s.fw.inService = true → field b 16 2 = s.fw.image.major) →
      (∀ c, modeCode s (field b 18 1) (slice b 52 32) = some c → ∃ t, exec (.hostHello m) s = .next t
        ∧ t = { s with ports := t.ports, out := t.out } ∧ tells t m.port [(6, refuseMsg c)])
      ∧ (modeCode s (field b 18 1) (slice b 52 32) = none → limitCode s (field b 18 1) = none → ∃ t a, exec (.hostHello m) s = .next t
        ∧ t = { s with ports := t.ports, out := t.out, attempts := s.attempts ++ [a], free := t.free }
        ∧ tells t m.port [(2, a.cert), (3, a.proof)] ∧ a.ip = ip ∧ a.mode = field b 18 1 ∧ a.keyHash = slice b 52 32
        ∧ a.nonce = slice b 20 32 ∧ a.answer = none ∧ a.since = bootTime s ∧ a.proof.length = 4445))
    ∧ (∀ a, listens s m.port = true → msgOk m 4 = true → 32 ≤ b.length → (s.port m.port).ready 0 ip = true →
      s.attempts.find? (fun a => a.ip == ip) = some a → a.answer = none →
      match proofCode s a (Config.kmac a.ss a.th2 256 cSession) b with
      | some c => ∃ t, exec (.hostProof m) s = .next t ∧ tells t m.port [(6, refuseMsg c)]
          ∧ t = { s with ports := t.ports, out := t.out, attempts := t.attempts, nor := t.nor, power := t.power, lockUntil := t.lockUntil }
          ∧ t.failures = s.failures + b2n (c == 4 && (a.mode == 1 || a.mode == 2)) ∧ (norFree s = false → t.nor = s.nor)
      | none => ∃ t x msg, exec (.hostProof m) s = .next t ∧ tells t m.port [(5, msg)]
          ∧ t = { s with ports := t.ports, out := t.out, attempts := t.attempts, nor := t.nor, power := t.power, lockUntil := t.lockUntil, sess := t.sess, nextSess := s.nextSess + 1, free := t.free }
          ∧ (a.mode = 1 ∨ a.mode = 2 → t.fails = tryOf s.fails a.mode false ∧ t.lockUntil = none) ∧ (norFree s = false → t.nor = s.nor)
          ∧ look t.sess s.nextSess = some x ∧ (∀ j, j ≠ s.nextSess → look t.sess j = look s.sess j)
          ∧ x.ip = a.ip ∧ x.mode = a.mode ∧ x.seqIn = 0 ∧ x.seqOut = 0 ∧ x.opened = false ∧ x.expired = false
          ∧ (s.fw.inService = false → x.role = 2) ∧ (s.fw.inService = true → x.role = (match a.mode with
              | 0 => b2n ((ownerOf s a.keyHash).any OwnerKey.admin)
              | 1 => 0
              | _ => 1)))
    ∧ (∀ a, s.attempts.find? (fun a => a.ip == ip && a.answer.isNone) = some a → a.since + 125000000 ≤ bootTime s → (s.port a.port).ready 0 ip = true →
        ∃ t, exec (.sessionProofTimeout m.src) s = .next t ∧ (∀ y ∈ t.attempts, y.ip ≠ ip) ∧ tells t a.port [(6, refuseMsg 9)]
          ∧ t = { s with ports := t.ports, out := t.out, attempts := t.attempts })
    ∧ (∀ id x, sessOf s m 0x12 = some (id, x) → (untag x.master b).2 = true → x.seqIn < field b 12 4 → x.role ≠ 2 →
        ∃ t, exec (.close m) s = .next t ∧ (∀ k ∈ t.keys, k.2.owner = .rings id → k.2.live = false) ∧ t.mem = s.mem
          ∧ (x.unloaded = true → look t.sess id = none)
          ∧ (x.unloaded = false → s.reclaims.length < 16 → (look t.sess id).map Session.expired = some true
            ∧ t.reclaims = s.reclaims ++ [⟨id, bootTime s + x.reclaimS * 25000000⟩]
            ∧ ∀ c ∈ ctxsOf s id, (s.ctx c).st = .stopped ∨ (s.ctx c).st = .held → (t.ctx c).st = .retained))
    ∧ (∀ t0, s.lockUntil = some t0 → t0 ≤ bootTime s → exec .proofLockEnd s = .next { s with lockUntil := none })
    ∧ (∀ id x, s.sess.find? (fun p => p.2.role == 2) = some (id, x) → x.lastMsg + 250000000 ≤ bootTime s →
        ∃ t, exec .bootSessionIdle s = .next t ∧ t = { s with keys := t.keys, ports := t.ports, sess := t.sess, fw := t.fw, out := t.out }
          ∧ look t.sess id = none ∧ t.fw = { s.fw with staging := [] } ∧ ∀ k ∈ t.keys, k.2.owner = .boot → k.2.live = false)

/-- The requests of owners (R377 to R383, R386, R392, R393): ATTEST answers the measurements under the device's signature; an ADMIN adds
and removes keys, sets the policy, the password and the boot address, and releases the module; the last ADMIN key stays;
any other role is answered STATE (log 37); a change goes to both copies of the identity record (R74); a code of no request is answered with its status. The place of the fields of
POLICY_SET and BOOT_ADDRESS is log 36. -/
def Obligations.OwnerRequests : Prop :=
  ∀ (m : Datagram) (s : State) (id : Nat) (x : Session),
    let fs := (m.body.take (m.body.length - 16)).drop 20
    let done := fun (c : Instr) (st : Nat) (n : Nor) => ∃ t, exec c s = .next t ∧ sessAnswers s t m id x st []
      ∧ t = { s with ports := t.ports, out := t.out, sess := t.sess, nor := n }
    (∀ r ∈ adminRows, sessAsked s m r.1 id x → x.role ≠ 1 → done (r.2 m) 3 s.nor)
    ∧ (∀ c, 16 < c → sessAsked s m c id x → done (.unknownSessionRequest m) 20 s.nor)
    ∧ (sessAsked s m 1 id x → ∃ t sig, exec (.attest m) s = .next t ∧ t = { s with ports := t.ports, out := t.out, sess := t.sess, free := s.free + 1 }
        ∧ sig.length = 3309 ∧ sessAnswers s t m id x 0 (natLe 4 0x5441564B ++ natLe 2 1 ++ natLe 2 (attEntries s).length ++ natLe 1 s.model.code
          ++ natLe 1 2 ++ zeros 6 ++ fit 32 (Config.shake Config.deviceKey 256) ++ fit 32 fs ++ zeros 16 ++ (attEntries s).flatten ++ sig))
    ∧ (x.role = 1 →
      (sessAsked s m 2 id x →
        let o : OwnerKey := ⟨field fs 0 1 == 1, slice fs 1 1952, fit 32 (Config.shake (slice fs 1 1952) 256)⟩
        if (ownerOf s o.hash).isSome then done (.ownerAdd m) 11 s.nor
        else if 8 ≤ s.nor.owners.length then done (.ownerAdd m) 23 s.nor
        else if norFree s then done (.ownerAdd m) 0 ({ s.nor with owners := s.nor.owners ++ [o] }).commit else done (.ownerAdd m) 2 s.nor)
      ∧ (sessAsked s m 3 id x → (ownerOf s (slice fs 0 32) = none → done (.ownerRemove m) 4 s.nor)
        ∧ ∀ o, ownerOf s (slice fs 0 32) = some o →
          (o.admin = true → (s.nor.owners.filter OwnerKey.admin).length ≤ 1 → done (.ownerRemove m) 24 s.nor)
          ∧ (o.admin = false ∨ 1 < (s.nor.owners.filter OwnerKey.admin).length → norFree s = true →
              done (.ownerRemove m) 0 ({ s.nor with owners := s.nor.owners.filter (fun y => y.hash != slice fs 0 32) }).commit))
      ∧ (sessAsked s m 5 id x →
        match Config.gcmOpen (keyOf x.master "ENC") (slice m.body 12 4 ++ zeros 8) (slice m.body 0 20) (slice fs 4 (field fs 0 1 + 16)) with
        | none => done (.passwordSet m) 21 s.nor
        | some pw => if pw.length < 8 ∨ 128 < pw.length then done (.passwordSet m) 1 s.nor
          else norFree s = true → ∃ t salt, exec (.passwordSet m) s = .next t ∧ sessAnswers s t m id x 0 []
            ∧ t = { s with ports := t.ports, out := t.out, sess := t.sess, free := t.free, nor := t.nor }
            ∧ t.nor = ({ s.nor with password := some (salt, fit 32 (Config.kmac salt pw 256 cPassword)), pwAllowed := true }).commit)
      ∧ (norFree s = true →
        (sessAsked s m 4 id x → let p := field fs 0 1
          done (.policySet m) 0 ({ s.nor with signed := bit p 0, pwAllowed := bit p 1, macsecReq := bit p 2, bootAuth := bit p 3 }).commit)
        ∧ (sessAsked s m 6 id x → done (.ownerRelease m) 0 ({ s.nor with
            owners := [], password := none, signed := false, pwAllowed := false, macsecReq := false, bootAuth := false }).commit)
        ∧ (sessAsked s m 7 id x → field fs 16 1 ≠ 0 → done (.bootAddress m) 0 ({ s.nor with bootAddr := some (field fs 0 16 % 2 ^ 32, field fs 16 1) }).commit))
      ∧ (norFree s = false → ∀ r ∈ [(4, Instr.policySet m), (6, .ownerRelease m), (7, .bootAddress m)], sessAsked s m r.1 id x → done r.2 2 s.nor))

/-- The requests that act on the module (R374, R382, R394, R395, R432, R433, R436, R497, R512, R513): MACSEC_ON derives the port's key;
BOOT_CONNECT opens the staging area for writes; BOOT_GO starts a good image, where no unit of the boot die that service needs has failed (R498), and counts a bad one; RINGS_OPEN gives a queue
pair and a key to the session's space; the dump is opened, released and sized; a reset is called for; a shutdown begins
only without contexts, and its end writes the results, latches ALERT_N and puts the module down with nothing kept. -/
def Obligations.ModuleRequests : Prop :=
  ∀ (m : Datagram) (s : State) (id : Nat) (x : Session),
    let fs := (m.body.take (m.body.length - 16)).drop 20
    let f := field fs
    let p := f 0 1
    (sessAsked s m 8 id x → portFitted s p = true → (s.port p).role = 1 ∨ (s.port p).role = 3 → ∃ t, exec (.macsecOn m) s = .next t
      ∧ sessAnswers s t m id x 0 [] ∧ t = { s with ports := t.ports, out := t.out, sess := t.sess }
      ∧ (t.port p).an = (if (s.port p).macsec.isSome then ((s.port p).an + 1) % 4 else (s.port p).an)
      ∧ let k := Config.kmac (keyOf x.master "SAK") (natLe 1 p ++ natLe 1 (t.port p).an) 352 cMacsec
        (t.port p).macsec = some ⟨fit 32 k, fit 12 (k.drop 32), 0, 0⟩)
    ∧ (∀ e k, sessAsked s m 9 id x → x.role = 2 → (∀ y ∈ s.keys, y.2.owner ≠ .boot) → (∀ y ∈ s.ports, ∀ q ∈ y.2.qps, q.2.owner ≠ .boot) →
        freeQp s m.port = some e → freeKey s = some k → ∃ t qpn psn key q, exec (.bootConnect m) s = .next t
          ∧ sessAnswers s t m id x 0 (natLe 4 qpn ++ natLe 4 psn ++ natLe 4 key) ∧ t.fw.staging = []
          ∧ key % 65536 = k ∧ look t.keys k = some ⟨key / 65536, .boot, 0, 67108864, false, true, false, true⟩
          ∧ t.qp m.port qpn = some q ∧ q.owner = .boot ∧ q.psnRecv = f 4 4 % 2 ^ 24 ∧ q.remoteQpn = f 0 4 % 2 ^ 24)
    ∧ (sessAsked s m 10 id x → x.role = 2 →
        if imageOk s (Mem.bytes s.fw.staging 0 (f 0 4)) (f 0 4) then ∃ t rest, exec (.bootGo m) s = .next t
          ∧ t.out = s.out ++ Out.sess m.port x.ip 0x11 (response x id 0 []) :: rest ∧ look t.sess id = none
          ∧ ((s.die s.fw.bootDie).lame = true → t.fw = { s.fw with staging := [] })
          ∧ ((s.die s.fw.bootDie).lame = false → t.fw.inService = true ∧ t.fw.loaded = true ∧ t.attempts = []
            ∧ t.fw.image = imageOf (Mem.bytes s.fw.staging 0 (f 0 4)) (f 0 4))
        else ∃ t, exec (.bootGo m) s = .next t ∧ sessAnswers s t m id x 22 []
          ∧ t = { s with ports := t.ports, out := t.out, sess := t.sess, fw := { s.fw with badImages := hold 8 s.fw.badImages 1 } })
    ∧ (∀ e k, sessAsked s m 11 id x → x.role ≠ 2 → x.opened = false → x.rings = [] → portFitted s p = true → (s.port p).role = 1 ∨ (s.port p).role = 3 →
        6 ≤ f 16 1 → f 16 1 ≤ f 17 1 → f 17 1 ≤ 12 → 6 ≤ f 18 1 → f 18 1 ≤ 14 → 0 < f 20 4 → f 20 4 ≤ 2 ^ f 18 1 → 0 < f 24 4 → f 24 4 ≤ 2 ^ f 17 1 →
        f 28 4 ≤ 65535 → f 12 4 ∈ [1024, 2048, 4096] → (∀ y ∈ s.keys, y.2.owner ≠ .rings id) → freeQp s p = some e → freeKey s = some k →
        ∃ t qpn psn key q y, exec (.ringsOpen m) s = .next t
          ∧ t.out = s.out ++ [.sess m.port x.ip 0x11 (response x id 0 (natLe 4 qpn ++ natLe 4 psn ++ natLe 4 key))]
          ∧ look t.keys k = some ⟨key / 65536, .rings id, 0, 0x10000000 + 2 ^ 30, true, true, false, true⟩ ∧ key % 65536 = k
          ∧ t.qp p qpn = some q ∧ q.owner = .rings id ∧ q.psnRecv = f 8 4 % 2 ^ 24 ∧ q.remoteQpn = f 4 4 % 2 ^ 24 ∧ q.mtu = f 12 4 ∧ q.mark = false
          ∧ look t.sess id = some y ∧ y.opened = true ∧ y.rings = [(p, qpn)] ∧ y.subLog = f 16 1 ∧ y.cplLog = f 17 1 ∧ y.evtLog = f 18 1
          ∧ y.evtThr = f 20 4 ∧ y.cplThr = f 24 4 ∧ y.delay = f 28 4)
    ∧ (x.role = 1 →
      (sessAsked s m 12 id x → ∃ t, exec (.resetModule m) s = .next t ∧ t = { s with ports := t.ports, out := t.out, sess := t.sess, due := t.due }
        ∧ sessAnswers s t m id x (if s.fw.update.isSome then 2 else 0) [] ∧ (s.fw.update = none → Due.l4 false ∈ t.due) ∧ (s.fw.update.isSome = true → t.due = s.due))
      ∧ (∀ k, sessAsked s m 13 id x → dumpThere s = true → (∀ y ∈ s.keys, y.2.owner ≠ .dump) → freeKey s = some k → ∃ t key, exec (.dumpOpen m) s = .next t
        ∧ sessAnswers s t m id x 0 (natLe 8 (s.dump.size * 2 ^ 30) ++ natLe 4 key) ∧ key % 65536 = k
        ∧ look t.keys k = some ⟨key / 65536, .dump, 0, s.dump.size * 2 ^ 30, true, false, false, true⟩)
      ∧ (sessAsked s m 14 id x → ∃ t, exec (.dumpRelease m) s = .next t ∧ sessAnswers s t m id x (if s.dump.st = 0 then 3 else 0) []
        ∧ t.dump.st = 0 ∧ (s.dump.st ≠ 0 → ∀ k ∈ t.keys, k.2.owner = .dump → k.2.live = false))
      ∧ (sessAsked s m 15 id x → norFree s = true → ∃ t, exec (.dumpSize m) s = .next t ∧ sessAnswers s t m id x (if f 0 4 = 0 ∨ 16 < f 0 4 then 1 else 0) []
        ∧ t.nor = if f 0 4 = 0 ∨ 16 < f 0 4 then s.nor else ({ s.nor with dumpGib := f 0 4 }).commit)
      ∧ (sessAsked s m 16 id x → ∃ t, exec (.shutdown m) s = .next t
        ∧ (let held := s.ctxs.any (fun c => c.2.st != .free)
           sessAnswers s t m id x (if held then 2 else 0) [] ∧ t.fw.stopping = (s.fw.stopping || !held))))
    ∧ (∀ fails notRun, s.fw.stopping = true → ∃ t, exec (.orderlyShutdown fails notRun) s = .next t ∧ t.sess = [] ∧ t.cores = [] ∧ t.mem = []
        ∧ t.power.pgood = false ∧ t.power.alertLow = true ∧ bit t.i3c.alert 6 = true ∧ t.i3c.testDone = true
        ∧ t.i3c.testFails = Nat.min 0xFF fails.length ∧ t.i3c.testNotRun = Nat.min 0xFF notRun ∧ (∀ d, (t.die d).railsOn = false)
        ∧ ∀ d, d < s.model.dies → s.fenced d = false → get 0 t.cursors d = (get 0 s.cursors d + 1) % 16)

/-! ### Host rings, cellar, lease and reclaim (chapter 14) -/

/-- A session's rings (R436 to R447, R457, R458, R519): a doorbell whose tag and range hold moves its pointer, any other is a
BAD_ENTRY; the next submission is taken with its fields, or completes at once when no request has its code, or is skipped
when its tag does not hold; a due nudge goes out once; a touch renews the lease and a session not touched for its lease
expires. The requests that pass their fields in the argument object are log 36. -/
def Obligations.HostRings : Prop :=
  ∀ (i : Nat) (s : State) (x : Session),
    (served s i = some x →
      (∀ v, slotValue x 0 = (v, true) → exec (.doorbellSubmission i) s = .next
        (if x.subProd < v ∧ v ≤ x.subCons + 2 ^ x.subLog then s.setSess i { x with subProd := v } else badEntry s 3 v))
      ∧ (∀ v, slotValue x 1 = (v, true) → exec (.doorbellCompletion i) s = .next
        (if x.cplCons < v ∧ v ≤ x.cplProd then s.setSess i { x with cplCons := v } else badEntry s 3 v))
      ∧ (∀ v, slotValue x 2 = (v, true) →
        (x.evtCons < v → v ≤ x.evtProd → x.sinceOver = 0 → exec (.doorbellEvent i) s = .next (s.setSess i { x with evtCons := v }))
        ∧ (x.evtCons < v → v ≤ x.evtProd → 0 < x.sinceOver → x.evtProd - v < 2 ^ x.evtLog → ∃ t y, exec (.doorbellEvent i) s = .next t
          ∧ t = { s with sess := t.sess } ∧ look t.sess i = some y ∧ y.evtCons = v ∧ y.sinceOver = 0 ∧ y.evtProd = x.evtProd + 1
          ∧ Mem.bytes y.space (0x90000 + x.evtProd % 2 ^ x.evtLog * 64) 2 = natLe 2 7))
      ∧ (x.subCons < x.subProd → x.cplProd + x.cplHeld - x.cplCons < 2 ^ x.cplLog →
        let b := Mem.bytes x.space (0x10000 + x.subCons % 2 ^ x.subLog * 64) 64
        let code := field b 0 2
        let y := { x with subCons := x.subCons + 1, cplHeld := x.cplHeld + 1 }
        (slice b 48 16 = tagH x (slice b 0 48 ++ natLe 1 0 ++ natLe 8 x.subCons) → inArgs code = false → s.barred x = false →
          (code ∈ requestCodes → exec (.submissionTake i) s = .next { s.setSess i y with
            taken := s.taken ++ [⟨s.nextUid, i, code, field b 4 4, slice b 8 40, false⟩], nextUid := s.nextUid + 1 })
          ∧ (code ∉ requestCodes → (∀ u ∈ s.taken, u.uid ≠ s.nextUid) → ∃ t z, exec (.submissionTake i) s = .next t ∧ t.taken = s.taken
            ∧ look t.sess i = some z ∧ z.subCons = x.subCons + 1 ∧ z.cplProd = x.cplProd + 1
            ∧ Mem.bytes z.space (0x50000 + x.cplProd % 2 ^ x.cplLog * 64) 64
                = entryTag x (natLe 4 (field b 4 4) ++ natLe 2 20 ++ natLe 2 code ++ zeros 40) 1 x.cplProd))
        ∧ (slice b 48 16 ≠ tagH x (slice b 0 48 ++ natLe 1 0 ++ natLe 8 x.subCons) → ∃ t, exec (.submissionTake i) s = .next t
          ∧ t = { s with sess := t.sess, tagDrops := hold 16 s.tagDrops 1 } ∧ (look t.sess i).map Session.subCons = some (x.subCons + 1)))
      ∧ (∀ p qpn q, x.rings.find? (fun r => r.1 == p) = some (p, qpn) → nudgeDue x p (bootTime s) = true → (∀ t0, look x.nudged p = some t0 → t0 + 250 ≤ bootTime s) →
        s.qp p qpn = some q → q.error = false → q.rnrWait = false → (s.port p).ready 2 q.remoteIp = true → ∃ t, exec (.nudge i p) s = .next t
          ∧ t = { s with sess := t.sess, ports := t.ports, out := s.out ++ [.send p q.remoteQpn (nudgeBytes i x)] }
          ∧ (look t.sess i).map Session.nseq = some (x.nseq + 1))
      ∧ (let b := Mem.bytes x.space 0x2000 32
         slice b 16 16 = tagH x (slice b 0 16) → x.count < field b 0 8 → exec (.leaseTouch i) s = .next (s.setSess i { x with
          count := field b 0 8, touched := bootTime s, nextLease := none
          leaseMs := (x.nextLease.getD (x.leaseMs, x.reclaimS)).1, reclaimS := (x.nextLease.getD (x.leaseMs, x.reclaimS)).2 })))
    ∧ (look s.sess i = some x → x.role ≠ 2 → x.expired = false → x.touched + x.leaseMs * 25000 ≤ bootTime s → s.reclaims.length < 16 →
        ∃ t, exec (.leaseExpiry i) s = .next t ∧ t.mem = s.mem ∧ (look t.sess i).map Session.expired = some true
          ∧ t.reclaims = s.reclaims ++ [⟨i, bootTime s + x.reclaimS * 25000000⟩] ∧ (∀ k ∈ t.keys, k.2.owner = .rings i → k.2.live = false)
          ∧ ∀ c ∈ ctxsOf s i, (s.ctx c).st = .stopped ∨ (s.ctx c).st = .held → (t.ctx c).st = .retained)

/-- The requests of a session about itself (R444, R461, R519) and CTX_RECLAIM (R460): the argument object, the next lease, the
module's readings, 64 bytes a die; the contexts of a session in its reclaim window pass to another of the same owner. -/
def Obligations.SessionOwnRequests : Prop :=
  ∀ (n : Nat) (s : State) (r : Taken),
    let f := field r.fields
    let plain := fun (t : State) => t = { s with taken := t.taken, sess := t.sess }
    (asked s n 0x0601 r → ∀ o x, s.obj (f 0 4) = some o → look s.sess r.sess = some x → s.fenced (f 0 4 / 2 ^ 17) = false →
      (o.policy = 3 → ∃ t, exec (.argsAttach n) s = .next t ∧ plain t ∧ completes s t r 5 [])
      ∧ (o.policy ≠ 3 → ∃ t, exec (.argsAttach n) s = .next t ∧ plain t ∧ completes s t r 0 []
        ∧ (look t.sess r.sess).map Session.args = some (some (f 0 4))))
    ∧ (asked s n 0x0602 r → ∀ x, look s.sess r.sess = some x →
      (100 ≤ f 0 4 → f 0 4 ≤ 60000 → f 4 4 ≤ 3600 → ∃ t, exec (.leaseSet n) s = .next t ∧ plain t ∧ completes s t r 0 []
        ∧ (look t.sess r.sess).map Session.nextLease = some (some (f 0 4, f 4 4)) ∧ (look t.sess r.sess).map Session.leaseMs = some x.leaseMs)
      ∧ (f 0 4 < 100 ∨ 60000 < f 0 4 ∨ 3600 < f 4 4 → ∃ t, exec (.leaseSet n) s = .next t ∧ plain t ∧ completes s t r 1 []))
    ∧ (asked s n 0x0701 r → exec (.telemetry n) s = .next (result s r (f 0 8) (s.dieList.flatMap (telemetryOf s)))
        ∧ (∀ d, (telemetryOf s d).length = 64)
        ∧ ((∀ off k, argsAt s r.sess off k = none) → ∃ t, exec (.telemetry n) s = .next t ∧ plain t ∧ completes s t r 21 []))
    ∧ (asked s n 0x0604 r → ∀ x, look s.sess r.sess = some x →
      (ctxsOf s r.sess = [] → madeBusy s r.sess = false → ∃ t, exec (.unload n) s = .next t ∧ t = { s with objs := t.objs, taken := t.taken, sess := t.sess } ∧ completes s t r 0 []
        ∧ (look t.sess r.sess).map Session.unloaded = some true
        ∧ ∀ o, o ∈ t.objs ↔ o ∈ s.objs ∧ ¬(o.2.sess = r.sess ∧ o.2.maps = 0 ∧ o.2.pins = 0 ∧ o.2.work = none ∧ o.2.queue = []))
      ∧ (ctxsOf s r.sess ≠ [] → ∃ t, exec (.unload n) s = .next t ∧ t.mem = s.mem ∧ ∀ c ∈ ctxsOf s r.sess, (t.ctx c).st = .closing))
    ∧ (asked s n 0x0208 r → ∀ x, look s.sess r.sess = some x →
      let hit := s.reclaims.find? (fun q => decide (bootTime s < q.ends) && match look s.sess q.sess with
        | some y => y.mode == 0 && y.keyHash == x.keyHash && y.token == f 0 8
        | none => false)
      (x.mode ≠ 0 ∨ hit = none → ∃ t, exec (.ctxReclaim n) s = .next t ∧ plain t ∧ completes s t r 17 [])
      ∧ (∀ q, x.mode = 0 → hit = some q → q.sess ≠ r.sess → ∃ t, exec (.ctxReclaim n) s = .next t ∧ t.mem = s.mem ∧ completes s t r 0 []
        ∧ ∀ c, (look s.ctxs c).isSome = true → (s.ctx c).sess = q.sess → (s.ctx c).st = .retained →
            (t.ctx c).sess = r.sess ∧ ((t.ctx c).st = .stopped ∨ (t.ctx c).st = .held)))

/-- The cellar (R430, R432, R449 to R452, R454 to R456, R459, R465 class 9, R474): FW_UPDATE checks its image, begins with the first core,
and ends on every core or rolls back; a core that takes its segment restarts with it and pauses its role until its bound has passed
(log 80); a kick restarts a watchdog's time; an expired watchdog restarts its core, or CC-MS takes its role, or with no spare
left the next level is called for; a reclaim window's end releases a session without contexts. -/
def Obligations.CellarWorks : Prop :=
  ∀ (n d : Nat) (s : State) (r : Taken), d < s.model.dies →
    (asked s n 0x0603 r → s.fw.update = none →
      let b := r.fields
      let im := imageOf b b.length
      if imageOk s b b.length = false then ∃ t, exec (.fwUpdate n none) s = .next t ∧ completes s t r 22 [] ∧ t.fw = s.fw
      else if bit (field b 0x14 4) 0 = false ∨ field b 0x10 2 ≠ s.fw.image.major ∨ field b 0x12 2 ≠ s.fw.image.schema then
        ∃ t, exec (.fwUpdate n none) s = .next t ∧ completes s t r 18 [] ∧ t.fw = s.fw
      else exec (.fwUpdate n none) s = .next (updateCore (running { s with fw := { s.fw with update := some (im, r.uid, 0) } } r.uid) im 0))
    ∧ (∀ im uid i k, s.fw.update = some (im, uid, i) → (updateOrder s)[i]? = some (d, k) → s.fenced d = false → s.trellis.applying = none →
      let c := cellarCore s d k
      c.st ≠ 4 → let t := updateCore s im i
        t = { s with dies := t.dies, attempts := t.attempts } ∧ roleUp t d c.role = (List.range 5).any (fun j => j != k && (cellarCore s d j).st == 1 && (cellarCore s d j).role == c.role)
        ∧ cellarCore t d k = { c with
            st := 3, restarts := hold 8 c.restarts 1, lastRestart := some (s.die d).time, kick := (s.die d).time
            code := segOf im.code c.role, ends := some ((s.die d).time + 6250, 2) })
    ∧ (∀ im i, s.fw.update = some (im, r.uid, i) → s.taken[n]? = some r → s.taken.find? (fun u => u.uid == r.uid) = some r →
      i < (updateOrder s).length → s.trellis.applying = none →
      ((∀ p ∈ s.parts, leaving s p.1 = false) → ∃ t, exec (.fwUpdate n none) s = .next t ∧ completes s t r 0 [] ∧ t.fw = { s.fw with update := none, image := im }
        ∧ t.mem = s.mem ∧ t.cores = s.cores ∧ t.ctxs = s.ctxs ∧ t.objs = s.objs ∧ t.ports = s.ports
        ∧ ∀ e, (look s.dies e).isSome = true → s.fenced e = false → (t.die e).segs = im.code)
      ∧ ∀ j, j ≤ i → ∃ t, exec (.fwUpdate n (some j)) s = .next t ∧ completes s t r 19 [] ∧ t.fw = { s.fw with update := none }
        ∧ t.mem = s.mem ∧ t.cores = s.cores ∧ t.ctxs = s.ctxs
        ∧ ∀ m k, m ≤ i → (updateOrder s)[m]? = some (d, k) → s.fenced d = false → (cellarCore s d k).st ≠ 4 →
          (cellarCore t d k).st = 2 ∧ (cellarCore t d k).code = segOf (s.die d).segs (cellarCore s d k).role)
    ∧ (∀ k, s.reclaims[n]? = some k → k.ends ≤ bootTime s → ctxsOf s k.sess = [] → madeBusy s k.sess = false → ∃ t, exec (.reclaimWindowEnd n) s = .next t
        ∧ t = { s with keys := t.keys, ports := t.ports, objs := t.objs, sess := t.sess, reclaims := t.reclaims, out := t.out }
        ∧ look t.sess k.sess = none ∧ ∀ q ∈ t.reclaims, q.sess ≠ k.sess)
    ∧ (∀ k, k < 5 →
      let c := cellarCore s d k
      let now := (s.die d).time
      let fresh := match c.lastRestart with | some t => decide (t + 25000000 ≤ now) | none => true
      let told := fun (t : State) (sev : Nat) => (t.die d).reports = (s.die d).reports ++ [{ Fault64.blank with
        cls := 9, sev := sev, die := d, unit := 13, index := k, b := hold 8 c.wdog 1, time := now }]
      let retired := { c with wdog := hold 8 c.wdog 1, st := 4, role := 7, code := [] }
      (exec (.watchdogKick d k) s = .next (setCellar s d k { c with kick := now }))
      ∧ (s.fenced d = false → c.kick + Nat.max 1 c.window * 25000 ≤ now → s.trellis.applying = none → s.fw.update = none → (s.die d).reports.length < 256 →
        (∀ imageOk copyOk, c.st = 1 ∨ c.st = 5 → fresh = true → (imageOk || copyOk) = true → ∃ t, exec (.fwWdog d k imageOk copyOk) s = .next t
          ∧ t.mem = s.mem ∧ t.cores = s.cores ∧ told t 2
          ∧ cellarCore t d k = { c with
              wdog := hold 8 c.wdog 1, restarts := hold 8 c.restarts 1, lastRestart := some now, kick := now, st := 2
              code := if imageOk then c.code else segOf (s.die d).segs c.role, ends := some (now + (if imageOk then 6250 else 56250), 0) })
        ∧ (∀ imageOk copyOk, fresh = false ∨ (imageOk || copyOk) = false →
          (k ≠ 4 → c.st = 1 → (cellarCore s d 4).st = 5 → s.maps.length < 2048 → ∃ t, exec (.fwWdog d k imageOk copyOk) s = .next t
            ∧ t.mem = s.mem ∧ t.cores = s.cores ∧ told t 2 ∧ cellarCore t d k = retired
            ∧ (cellarCore t d 4).st = 2 ∧ (cellarCore t d 4).role = c.role ∧ (cellarCore t d 4).code = segOf (s.die d).segs c.role
            ∧ (cellarCore t d 4).ends = some (now + 62500, 1) ∧ (⟨9, d, 1, 3, k, 0, 0⟩ : MapEntry) ∈ t.maps)
          ∧ (k = 4 ∨ (cellarCore s d 4).st ≠ 5 → c.st = 1 → ∃ t, exec (.fwWdog d k imageOk copyOk) s = .next t ∧ t.mem = s.mem
            ∧ cellarCore t d k = retired ∧ told t (if d = s.fw.bootDie then 5 else 4)
            ∧ (if d = s.fw.bootDie then Due.l4 true else .l3 d) ∈ t.due)
          ∧ (k = 4 → c.st = 5 → ∃ t, exec (.fwWdog d k imageOk copyOk) s = .next t ∧ t.mem = s.mem ∧ t.due = s.due
            ∧ cellarCore t d k = retired ∧ told t 2))))

/-! ### Collectives (chapter 13) -/

/-- COLL_CREATE, COLL_DESTROY, COLL_QUERY and the timers of collective contexts (R397 to R400, R409, R412, R415 to R417, R422): a legal
table makes an OPEN context with its members and buckets; a destroyed one tells every member CLOSED; unanswered packets
and control packets go out again; a failed hop and a late round end FAILED; a complete round raises its DONE word by 1;
a quiet link's rate rises. Packets go from the port's own UDP port to the member's (R398, R410). The places of the requests'
fields are log 36. -/
def Obligations.CollectiveContexts : Prop :=
  ∀ (n : Nat) (s : State) (r : Taken),
    let f := field r.fields
    let quiet := fun (c : Coll) => ∀ b ∈ c.buckets, b.active = false ∨ b.complete = false
    (asked s n 0x0501 r → ∀ i,
      let c := f 0 2
      let p := f 2 1
      let m := f 12 4
      let ws := (s.ctx c).windows
      let r1 := rdVa s (s.home c) c (f 24 8) (32 * m) false
      let r2 := rdVa r1.2.2 (r1.2.2.home c) c (f 32 8) (64 * f 40 4) false
      let ms := readMembers r1.1 m
      let tab := r2.1
      let grp := (rdVa r2.2.2 (r2.2.2.home c) c (f 48 8) 512 false).1
      let bs := (List.range (f 40 4)).map (fun j => readBucket (slice tab (64 * j) 64) (field grp (8 * field tab (64 * j + 3) 1) 2))
      s.ctxNamed c = true → portFitted s p = true → (s.port p).role = 2 ∨ (s.port p).role = 3 → (s.port p).redOn = true → f 4 2 < 256 → 2 ≤ m → m ≤ 4096 →
      f 16 2 < m → f 20 4 < 65536 → f 40 4 ≤ 1024 → f 56 4 ≤ 60000 → inNear s ws (f 24 8) (32 * m) = true → inNear s ws (f 32 8) (64 * f 40 4) = true →
      inNear s ws (f 48 8) 512 = true → look (s.ctx c).colls (f 4 2) = none → (∀ y ∈ (s.port p).colls, y.2.job = f 8 4 → y.2.st = .closed) →
      leastFree (s.port p).colls 0 256 = some i → (nth ⟨0, 0, 0, false, []⟩ ms (f 16 2)).inc = f 20 4 → (bs.map Bucket.num).Nodup →
      (∀ j, j < f 40 4 → field tab (64 * j + 4) 1 % 4 = 0 ∨ field tab (64 * j + 4) 1 % 4 = 2) →
      (∀ g, g < 64 → 0 < field grp (8 * g) 2 ∧ field grp (8 * g) 2 ≤ 1024) →
      (∀ b ∈ bs, b.kind ≤ 2 ∧ b.group ≤ 63 ∧ 0 < b.len ∧ b.len % (32 * m) = 0 ∧ b.len ≤ 2 ^ 28 ∧ 0 < b.n ∧ b.n ≤ 1024 ∧ (b.kind = 2 → b.n = 1)
        ∧ (b.kind ≠ 2 → inNear s ws b.accum (8 * b.len + b.len / 32) = true)
        ∧ inRw s ws b.result (b.resultBytes m) = true ∧ inRw s ws b.done 8 = true) →
      ∃ t y, exec (.collCreate n) s = .next t ∧ completes s t r 0 [] ∧ t = { s with
            ports := t.ports, ctxs := t.ctxs, taken := t.taken, sess := t.sess, clusters := t.clusters, dies := t.dies, bad := t.bad, latent := t.latent }
        ∧ t.coll p i = some y ∧ look (t.ctx c).colls (f 4 2) = some (p, i) ∧ y.st = .open_ ∧ y.job = f 8 4 ∧ y.m = m ∧ y.own = f 16 2
        ∧ y.inc = f 20 4 ∧ y.members = ms ∧ y.buckets = bs ∧ y.window = (if f 56 4 = 0 then 1000 else f 56 4) ∧ y.unacked = [])
    ∧ (asked s n 0x0502 r → ∀ p i c, s.ctxNamed (f 0 2) = true → look (s.ctx (f 0 2)).colls (f 2 2) = some (p, i) → s.coll p i = some c → c.st ≠ .closed → quiet c →
        ∃ t y, exec (.collDestroy n) s = .next t ∧ completes s t r 0 [] ∧ t.mem = s.mem ∧ look (t.ctx (f 0 2)).colls (f 2 2) = none
          ∧ t.coll p i = some y ∧ y.st = .closed ∧ y.unacked = [] ∧ ∀ m, m < c.m → m ≠ c.own → ∃ z ∈ y.ctls, z.member = m ∧ z.type = 0x12)
    ∧ (asked s n 0x0503 r → ∀ v x, s.ctxNamed (f 0 2) = true → look (s.ctx (f 0 2)).colls (f 2 2) = some v → s.coll v.1 v.2 = some x →
        exec (.collQuery n) s = .next (result s r (f 8 8) (natLe 1 x.st.code ++ zeros 7 ++ x.members.flatMap (fun m => natLe 2 m.inc)
          ++ x.buckets.flatMap (fun b => natLe 2 b.num ++ zeros 2 ++ natLe 4 (b.round - 1))))
        ∧ ((∀ off k, argsAt s r.sess off k = none) → ∃ t, exec (.collQuery n) s = .next t ∧ completes s t r 21 []))
    ∧ (∀ p i c, p < s.model.ports → s.coll p i = some c →
      let plain := fun (t : State) => t = { s with ports := t.ports, out := t.out }
      let dest := fun (m : Nat) (k : CollPkt) => Out.coll p (c.member m).ip (c.member m).udp { k with sport := (s.port p).udp, dport := (c.member m).udp }
      let now := (s.die (portDie p)).time
      ((s.port p).ready 3 (c.member c.next).ip = true → ∃ t, exec (.collResend p i) s = .next t ∧ plain t ∧ t.out = s.out ++ c.unacked.map (fun x => dest c.next x.pkt)
        ∧ (t.coll p i).map (fun y => y.unacked.map LinkPkt.pkt) = some (c.unacked.map LinkPkt.pkt))
      ∧ ((∀ m, (s.port p).ready 3 (c.member m).ip = true) → c.st ≠ .closed → ∃ t, exec (.collControlResend p i) s = .next t ∧ plain t
        ∧ (let l := c.ctls.filter (fun x => decide (now < x.since + c.window * 25000))
           (t.coll p i).map Coll.ctls = some l ∧ t.out = s.out ++ l.map (fun x => dest x.member { c.packet x.member x.type [] with seq := x.num })))
      ∧ (c.st ≠ .closed → (∃ x ∈ c.unacked, x.answered = false ∧ x.onWire = true) ∨ ((s.port p).up = false ∧ ∃ b ∈ c.buckets, b.active = true) → (s.die (portDie p)).reports.length < 256 → quiet c →
        ∃ t y, exec (.hopFailed p i) s = .next t ∧ t = { s with ports := t.ports, sess := t.sess, dies := t.dies } ∧ t.coll p i = some y ∧ y.st = .failed
          ∧ y.unacked = [] ∧ (∀ b ∈ y.buckets, b.active = false ∧ b.heldUp = false) ∧ (t.port p).xHop = hold 16 (s.port p).xHop 1
          ∧ (t.die (portDie p)).reports = (s.die (portDie p)).reports ++ [{ Fault64.blank with
              ctx := c.ctx, cls := 7, die := portDie p, unit := 12, index := p, whereAt := c.handle, a := 4, b := c.next, time := now }])
      ∧ (∀ k b, c.bucket k = some b → b.active = true ∨ b.heldUp = true →
        (b.startAt + c.window * 25000 ≤ now → c.st ≠ .closed → quiet c → ∃ t, exec (.roundTimeout p i k) s = .next t
          ∧ t = { s with ports := t.ports, sess := t.sess } ∧ (t.coll p i).map Coll.st = some .failed
          ∧ ∀ y z, t.coll p i = some y → y.bucket k = some z → z.active = false ∧ z.heldUp = false)
        ∧ (b.active = true → b.complete = true → ∀ pa o g, b.redo = false → b.done % 8 = 0 → locate s c.ctx b.done .atomic false = .at_ pa o g → realAddr s pa →
          ∃ t, exec (.roundComplete p i k) s = .next t ∧ memKept s t pa 8 ∧ leNat (Mem.bytes t.mem pa 8) = (leNat (Mem.bytes s.mem pa 8) + 1) % 2 ^ 64
            ∧ (t.port p).cCompleted = hold 32 (s.port p).cCompleted 1 ∧ ∀ y z, t.coll p i = some y → y.bucket k = some z → z.active = false))
      ∧ ((∀ t, c.rateSince = some t → t + 25 * (s.port p).stepUs ≤ now) → exec (.collLinkRateIncrease p i) s = .next (s.onColl p i (fun c =>
          { c with rate := Nat.min 32768 (c.rate + 256), rateSince := some now }))))

/-- SCALE and DATA packets in sequence (R403 to R408, R410 to R414): a packet of the round in hand moves the link's number on and is
acknowledged, with ECE where it was marked CE (R416); scale bytes are reduced with MAX and passed on, or agreed, and data are summed with the own gradient and
passed on, or written as FP32 results; a packet ahead is answered NAK_SEQ, one of a round not started NOT_READY. -/
def Obligations.CollectiveData : Prop :=
  ∀ (p i bi : Nat) (k : CollPkt) (s : State) (c : Coll) (b : Bucket), p < s.model.ports → takesColl s p k → (s.port p).ready 3 (c.member c.prev).ip = true →
    k.version = 1 → collOfJob s p k.job false = some i → s.coll p i = some c → k.member = c.prev → incsOk c k = true → collResetting s c = false →
    c.bucket bi = some b → (List.range c.buckets.length).find? (fun j => (nth 0 (c.buckets.map Bucket.num) j) == k.bucket) = some bi → c.recvSeq < 2 ^ 32 →
    let ack := fun (type seq : Nat) => Out.coll p (c.member c.prev).ip (c.member c.prev).udp { c.packet c.prev type [] with
      ece := k.ce && type == 3, sport := (s.port p).udp, dport := (c.member c.prev).udp, seq := seq, bucket := k.bucket, round := k.round, hop := if type = 5 then k.hop else 0, epoch := if type = 5 then k.epoch else 0
      chunk := if type = 5 then k.chunk else 0 }
    let seg := hopSegment c.m c.prev k.hop
    let sends := fun (t : State) (bytes : Bytes) => ∃ y z, t.coll p i = some y ∧ y.unacked = c.unacked ++ [z] ∧ z.pkt.payload = bytes ∧ z.pkt.hop = k.hop + 1
      ∧ z.pkt.chunk = k.chunk ∧ z.pkt.bucket = b.num ∧ z.pkt.seq = c.sendSeq ∧ y.recvSeq = (c.recvSeq + 1) % 2 ^ 32
    (∀ ahead, 0 < ahead → ahead < 2 ^ 31 → k.seq = (c.recvSeq + ahead) % 2 ^ 32 → ∃ t, exec (.collScaleReceived p k) s = .next t
      ∧ t = { s with ports := t.ports, out := s.out ++ [ack 4 c.recvSeq] } ∧ t.coll p i = some c)
    ∧ (k.seq = c.recvSeq → phaseOf c b k = .early → ∃ t, exec (.collDataReceived p k) s = .next t
      ∧ t = { s with ports := t.ports, out := s.out ++ [ack 5 k.seq] } ∧ t.coll p i = some c ∧ (t.port p).wNotReady = hold 16 (s.port p).wNotReady 1)
    ∧ (k.seq = c.recvSeq → phaseOf c b k = .take →
      (let at_ := seg * (b.per c.m / 32) + k.chunk * 8192
       (k.hop + 2 < c.m → ∃ t, exec (.collScaleReceived p k) s = .next t ∧ t.mem = s.mem ∧ (∃ rest, t.out = s.out ++ ack 3 k.seq :: rest)
         ∧ sends t ((k.payload.map BitVec.toNat).zipIdx.map (fun v => BitVec.ofNat 8 (Nat.max v.1 (nth 0 b.scales (at_ + v.2))))))
       ∧ (c.m < k.hop + 2 → 2 * c.m ≤ k.hop + 3 → ∃ t y z, exec (.collScaleReceived p k) s = .next t ∧ t.mem = s.mem
         ∧ (∃ rest, t.out = s.out ++ ack 3 k.seq :: rest) ∧ t.coll p i = some y ∧ y.recvSeq = (c.recvSeq + 1) % 2 ^ 32 ∧ y.bucket bi = some z
         ∧ ∀ j v, k.payload[j]? = some v → at_ + j < b.agreed.length → z.agreed[at_ + j]? = some (some (agree c.m v.toNat))))
      ∧ (b.kind ≠ 2 →
        (k.hop + 2 < c.m → b.cellsRefused s c.ctx c.m seg k.chunk = none → ∃ t, exec (.collDataReceived p k) s = .next t ∧ t.mem = s.mem
          ∧ (∃ rest, t.out = s.out ++ ack 3 k.seq :: rest)
          ∧ sends t (hopChunk (b.cells s c.ctx c.m seg k.chunk).1 b (b.span c.m seg k.chunk).1 (some k.payload)).1)
        ∧ (∀ pa o g,
          let first := seg * b.per c.m + k.chunk * 8192
          let vals := k.payload.zipIdx.map (fun v => toF32 (wireVal (b.expOf (first + v.2)) v.1.toNat))
          let va := b.result + first * 4
          c.m < k.hop + 2 → b.redo = false → 0 < k.payload.length → va % 64 + 4 * k.payload.length ≤ 64 →
          locate s c.ctx va .write false = .at_ pa o g → realAddr s pa → ∃ t y z, exec (.collDataReceived p k) s = .next t
            ∧ memKept s t pa (4 * k.payload.length) ∧ Mem.bytes t.mem pa (4 * k.payload.length) = f32Bytes vals
            ∧ t.coll p i = some y ∧ y.recvSeq = (c.recvSeq + 1) % 2 ^ 32 ∧ y.bucket bi = some z ∧ z.wrote = b.wrote ++ [(seg, k.chunk)]
            ∧ (k.hop + 3 < 2 * c.m → sends t (k.payload.map (fun v => if v = 0x80 then 0x81 else v))))))

/-- Answers and control packets of a link (R412, R414 to R416, R419 to R422): an acknowledgement takes off what it covers, NAK_SEQ sends
the rest again; NOT_READY stops the count of its packets; a reset of a member holds the context once and raises one
PEER_RESET; REJOIN enters the new incarnation, and with no member left to rejoin the context is OPEN again; CLOSED ends
the rounds. A control packet is answered each time. -/
def Obligations.CollectiveControl : Prop :=
  ∀ (p i : Nat) (k : CollPkt) (s : State) (c : Coll), p < s.model.ports → takesColl s p k → k.version = 1 → s.coll p i = some c →
    (∀ b ∈ c.buckets, b.active = false ∨ b.complete = false) →
    let covered := fun (seq : Nat) (x : LinkPkt) => decide ((seq + 2 ^ 32 - x.pkt.seq) % 2 ^ 32 < 2 ^ 31)
    let held := fun (t : State) (y : Coll) => t.coll p i = some y ∧ (y.member k.member).reset = true ∧ y.unacked = (if k.member = c.next then [] else c.unacked) ∧ (c.st = .open_ → y.st = .held)
      ∧ (∀ b ∈ y.buckets, b.active = false)
      ∧ (t.die (portDie p)).reports = (s.die (portDie p)).reports ++ [{ Fault64.blank with
          ctx := c.ctx, cls := 8, die := portDie p, unit := 12, index := p, whereAt := k.member, a := c.handle, b := (c.member k.member).inc
          time := (s.die (portDie p)).time }]
    (∀ us, collOfJob s p k.job true = some i → k.type = 3 → k.hop = 0xFFFF → 0 < get 0 c.ctlNum k.member → incsOk c k = true → c.st ≠ .closed →
      ∃ t, exec (.collAckReceived p k us) s = .next t ∧ t = { s with ports := t.ports }
        ∧ (t.coll p i).map Coll.ctls = some (c.ctls.filter (fun x => x.member != k.member || x.num != k.seq)))
    ∧ (collOfJob s p k.job false = some i → k.member = c.next → incsOk c k = true →
      (∀ us, k.hop ≠ 0xFFFF →
        (k.type = 3 → k.ece = false → ∃ t, exec (.collAckReceived p k us) s = .next t ∧ t = { s with ports := t.ports }
          ∧ (t.coll p i).map Coll.unacked = some (c.unacked.filter (fun x => !covered k.seq x)))
        ∧ (k.type = 3 → k.ece = true → c.lastCut = none → ∃ t, exec (.collAckReceived p k us) s = .next t ∧ t = { s with ports := t.ports }
          ∧ (t.coll p i).map Coll.rate = some (Nat.max 128 (c.rate * (64 - (s.port p).cut) / 64)) ∧ (t.coll p i).map Coll.lastCut = some (some us))
        ∧ (k.type = 4 → (s.port p).ready 3 (c.member c.next).ip = true → ∃ t, exec (.collAckReceived p k us) s = .next t ∧ t = { s with ports := t.ports, out := t.out }
          ∧ (let l := c.unacked.filter (fun x => !covered ((k.seq + 2 ^ 32 - 1) % 2 ^ 32) x)
             (t.coll p i).map (fun y => y.unacked.map LinkPkt.pkt) = some (l.map LinkPkt.pkt)
               ∧ t.out = s.out ++ l.map (fun x => Out.coll p (c.member c.next).ip (c.member c.next).udp
                  { x.pkt with sport := (s.port p).udp, dport := (c.member c.next).udp }))))
      ∧ (∃ t, exec (.collNotReadyReceived p k) s = .next t ∧ t = { s with ports := t.ports }
        ∧ (t.coll p i).map Coll.unacked = some (c.unacked.map (fun x => if x.pkt.bucket = k.bucket ∧ x.pkt.round = k.round then { x with answered := true } else x)))
      ∧ ((c.member k.member).reset = false → c.st ≠ .closed → k.member < c.members.length → (s.die (portDie p)).reports.length < 256 →
        ∃ t y, exec (.collResettingReceived p k) s = .next t ∧ t = { s with ports := t.ports, dies := t.dies } ∧ held t y))
    ∧ (collOfJob s p k.job false = some i → k.member < c.m → k.member < c.members.length → k.member ≠ c.own → (c.member k.member).ip = k.src.toNat →
      c.st ≠ .closed → (s.die (portDie p)).reports.length < 256 → (s.port p).ready 3 (c.member k.member).ip = true →
      let x := c.member k.member
      let acked := fun (t : State) (dest : Member) => ∃ z, t.out = s.out ++ [.coll p dest.ip dest.udp z] ∧ z.type = 3 ∧ z.hop = 0xFFFF ∧ z.seq = k.seq ∧ z.ece = k.ce ∧ z.job = c.job
        ∧ z.sport = (s.port p).udp ∧ z.dport = dest.udp
      (k.destInc = c.inc → k.inc = x.inc → k.seq ∉ x.ctlSeen →
        (x.reset = false → ∃ t y, exec (.resetNotice p k) s = .next t ∧ t = { s with ports := t.ports, dies := t.dies, out := t.out } ∧ held t y ∧ acked t x
          ∧ (y.member k.member).ctlSeen = x.ctlSeen ++ [k.seq])
        ∧ (∃ t y, exec (.closed p k) s = .next t ∧ t = { s with ports := t.ports, sess := t.sess, out := t.out } ∧ acked t x
          ∧ t.coll p i = some y ∧ y.unacked = (if k.member = c.next then [] else c.unacked) ∧ y.st = (if c.st = .held then .open_ else c.st)
          ∧ (y.member k.member).reset = false ∧ ∀ b ∈ y.buckets, b.active = false ∧ b.heldUp = false))
      ∧ (k.destInc = c.inc → k.inc = x.inc → k.seq ∈ x.ctlSeen → ∃ t, exec (.resetNotice p k) s = .next t
          ∧ t = { s with ports := t.ports, out := t.out } ∧ acked t x ∧ t.coll p i = some c)
      ∧ (k.inc = (x.inc + 1) % 65536 → c.st = .held → (∀ b ∈ c.buckets, b.heldUp = false) → ∃ t y, exec (.rejoin p k) s = .next t
          ∧ t = { s with ports := t.ports, out := t.out } ∧ acked t x ∧ t.coll p i = some y
          ∧ (y.member k.member).inc = k.inc ∧ (y.member k.member).reset = false ∧ (k.member = c.prev → y.recvSeq = 0) ∧ (k.member = c.next → y.sendSeq = 0 ∧ y.unacked = [])
          ∧ y.st = (if ∃ j, j < c.members.length ∧ j ≠ k.member ∧ (c.member j).reset = true then .held else .open_)))

/-! ### Faults and recovery (chapters 15 and 16) -/

/-- FAULT_REPORT, HANG_SAMPLE, ERRORS_LOG_HOURLY and RECOVERY_BOUND_MISSED (R463 to R466, R468 to R470, R474, R477, R487, R520): the first
report that waits is logged with its number and severity, and calls for its recovery; a unit with work that has stood
still for the window is charged with HANG; an excused unit's time starts anew; an hour's errors are logged; a missed bound
takes the next level: the records of its causes set ESCALATED, and the one that follows each is log 82. -/
def Obligations.FaultsReported : Prop :=
  ∀ (d : Nat) (s : State), d < s.model.dies →
    let sameUnits := fun (t : State) => ∀ k, (t.core k).ctx = (s.core k).ctx ∧ (t.core k).hw = (s.core k).hw
    (∀ f rest, (s.die d).reports = f :: rest → roleUp s d 2 = true → (f.cls = 10 → f.a % 256 ≠ 1) →
      f.cls ≠ 4 ∨ (s.trellis.applying = none ∧ ∀ y ∈ s.parts, y.2.sw = none) → ∃ t g, exec (.faultReport d) s = .next t ∧ t.mem = s.mem ∧ t.cores = s.cores
      ∧ (t.die d).reports = rest ∧ (t.die d).log.getLast? = some g ∧ g = { f with sev := g.sev, seq := (s.die d).seq }
      ∧ (t.die d).seq = ((s.die d).seq + 1) % 2 ^ 32
      ∧ (f.cls = 6 → (t.die d).cEcc = hold 16 (s.die d).cEcc 1 ∧ t.due = s.due ∧ g.sev = 0)
      ∧ (f.cls ∈ [1, 2, 3, 5] → f.ctx ≠ 0xFFFF → Due.l0 f.ctx ∈ t.due ∧ (l2On s f.ctx = false → g.sev = 1))
      ∧ (f.cls = 4 → f.a % 256 = 32 → f.unit = 12 → Due.l1port f.index ∈ t.due ∧ g.sev = 2)
      ∧ (f.cls = 10 → f.a % 256 = 2 → s.fenced f.die = false → Due.l3 f.die ∈ t.due ∧ g.sev = 4))
    ∧ (∀ kind index, roleUp s d 2 = true → kind ∈ [6, 9, 10, 11, 12, 14] →
      (excused s d kind index = true → exec (.hangSample ⟨d, kind, index⟩) s
        = .next (s.setDie d { s.die d with hang := del (s.die d).hang (unitKey kind index) }))
      ∧ (excused s d kind index = false → hasWork s d kind index = false → ∃ t, exec (.hangSample ⟨d, kind, index⟩) s = .next t ∧ t = { s with dies := t.dies }
        ∧ (t.die d).reports = (s.die d).reports ∧ look (t.die d).hang (unitKey kind index) = some (progressOf s d kind index, (s.die d).time))
      ∧ (∀ t0, excused s d kind index = false → hasWork s d kind index = true → look (s.die d).hang (unitKey kind index) = some (progressOf s d kind index, t0) →
        (t0 + (s.die d).hangWin ≤ (s.die d).time → (s.die d).reports.length < 256 → ∃ t, exec (.hangSample ⟨d, kind, index⟩) s = .next t
          ∧ t = { s with dies := t.dies } ∧ look (t.die d).hang (unitKey kind index) = none
          ∧ (t.die d).reports = (s.die d).reports ++ [{ Fault64.blank with
              cls := 4, die := d, unit := kind, index := index, a := 32, b := progressOf s d kind index, time := (s.die d).time }])
        ∧ ((s.die d).time < t0 + (s.die d).hangWin → ∃ t, exec (.hangSample ⟨d, kind, index⟩) s = .next t ∧ t = { s with dies := t.dies }
          ∧ (t.die d).reports = (s.die d).reports)))
    ∧ (∀ r, roleUp s d 2 = true → (s.die d).rates = [r] →
      let n := (r.times.filter (fun t => decide ((s.die d).time < t + 2160000000000))).length
      (n = 0 → exec (.errorsLogHourly d) s = .next s)
      ∧ (0 < n → norFree s = true → s.power.logQ = [] → (logRoom s).1 = true → s.nor.log.length < 65536 → ∃ t, exec (.errorsLogHourly d) s = .next t
        ∧ t = { s with power := t.power, nor := t.nor } ∧ t.nor.log = s.nor.log ++ [⟨6, d, s.starts, (s.die d).time,
          (⟨r.kind, d, 0, 1, if r.kind = 12 then slowest s d r.unit else r.unit, r.sub, r.whereAt⟩ : MapEntry).bytes ++ natLe 4 n⟩]))
    ∧ (∀ i,
      let follows := fun (r : Due) (t : State) (sev : Nat) => ∀ f, s.causesOf r = [f] → (t.die f.die).log.getLast? = some { f with
        flags := 0, sample := 0xFFFFFFFF, time := (s.die f.die).time, sev := sev, seq := (s.die f.die).seq }
      (Due.l3 d ∈ s.due → ∃ t, exec (.recoveryBoundMissed 3 ⟨d, 0, i⟩) s = .next t ∧ t.mem = s.mem ∧ t.cores = s.cores
        ∧ Due.l4 true ∈ t.due ∧ Due.l3 d ∉ t.due ∧ follows (.l3 d) t 5)
      ∧ (Due.l2 d i ∈ s.due → s.fenced d = false → ∃ t, exec (.recoveryBoundMissed 2 ⟨d, 0, i⟩) s = .next t ∧ t.mem = s.mem ∧ t.cores = s.cores
          ∧ Due.l3 d ∈ t.due ∧ (∀ j, Due.l2 d j ∉ t.due) ∧ follows (.l2 d i) t 4)
      ∧ (Due.l1rack d i ∈ s.due → s.fenced d = false → ∃ t, exec (.recoveryBoundMissed 1 ⟨d, 11, i⟩) s = .next t ∧ t.mem = s.mem
          ∧ Due.l3 d ∈ t.due ∧ Due.l1rack d i ∉ t.due ∧ follows (.l1rack d i) t 4)
      ∧ (Due.l0 i ∈ s.due → let p := (s.ctx i).part
          s.hasPart p = true → s.due = [.l0 i] → (s.part p).lastResetAt = none → (s.part p).st = .inService → (s.part p).sw = none → s.trellis.applying = none →
          ∃ t, exec (.recoveryBoundMissed 0 ⟨d, 0, i⟩) s = .next t ∧ t.cores = s.cores ∧ Due.l2 (p / 8) (p % 8) ∈ t.due
            ∧ (t.part p).st = .inClearing ∧ follows (.l0 i) t 3)
      ∧ (∀ u, l4Open s = true → s.power.standby = true → s.power.afterL5 = false → s.power.pwrReq = false → ∃ t,
          exec (.recoveryBoundMissed 4 u) s = .next t ∧ t.power.pwrReq = true ∧ t.power.alertLow = true ∧ t.mem = s.mem ∧ t.due = s.due)
      ∧ (Due.l1port i ∈ s.due → (∀ c ∈ (s.port i).colls, ∀ b ∈ c.2.buckets, b.active = false ∨ b.complete = false) → ∃ t, exec (.recoveryBoundMissed 1 ⟨d, 12, i⟩) s = .next t ∧ t.mem = s.mem ∧ sameUnits t
          ∧ (t.port i).failed = true ∧ (t.port i).up = false ∧ Due.l1port i ∉ t.due))

/-- CONTEXT_ABORT, PORT_RESET, PARTITION_RESET, DIE_FENCE and MODULE_RESET, when they are called for (R475 to R484, R485, R516): an abort
leaves a context ABORTED with its keys closed to writes; a port's reset ends its queue pairs and clears its counters; a
partition's reset counts, and its context is resumed or aborted; a fenced die loses its rails and its memory and its
contexts are ABORTED; a module's reset leaves no unit, session or context, and the memory of the dies whose DRAM stays. -/
def Obligations.Recoveries : Prop :=
  ∀ (s : State),
    let sameUnits := fun (t : State) => ∀ k, (t.core k).ctx = (s.core k).ctx ∧ (t.core k).hw = (s.core k).hw
    (∀ c x, Due.l0 c ∈ s.due → l2On s c = false → roleUp s (c / 1024) 0 = true → look s.ctxs c = some x → x.st ≠ .closing → x.st ≠ .aborted → x.st ≠ .free →
      ∃ t, exec (.contextAbort c) s = .next t ∧ (t.ctx c).st = .aborted ∧ Due.l0 c ∉ t.due
        ∧ (∀ k ∈ t.keys, k.2.owner = .ctx c → k.2.wr = false ∧ k.2.at_ = false)
        ∧ ((s.part x.part).resident = some c → (t.part x.part).resident = none)
        ∧ ((s.part x.part).resident ≠ some c → x.colls = [] → t.mem = s.mem ∧ sameUnits t))
    ∧ (∀ p us, p < s.model.ports → Due.l1port p ∈ s.due → s.fenced (portDie p) = false →
        (∀ c ∈ (s.port p).colls, ∀ b ∈ c.2.buckets, b.active = false ∨ b.complete = false) → ∃ t, exec (.portReset p us) s = .next t
        ∧ t.mem = s.mem ∧ sameUnits t ∧ Due.l1port p ∉ t.due ∧ (t.port p).up = (s.port p).up ∧ readReg t (.portDrops p) = 0
        ∧ (∀ qpn q, t.qp p qpn = some q → q.error = true) ∧ t.interrupted = s.interrupted + us / s.model.ports
        ∧ ∀ q, q ≠ p → t.port q = s.port q)
    ∧ (∀ d first us env, d < s.model.dies → first < 8 → let p := 8 * d + first
        Due.l2 d first ∈ s.due → s.fenced d = false → roleUp s d 0 = true → s.trellis.applying = none →
        chargedCores (s.causesOf (.l2 d first)) = [] →
        (s.hasPart p = true → (s.part p).resident = none → ∃ t, exec (.partitionReset d first us env) s = .next t ∧ Due.l2 d first ∉ t.due
          ∧ (t.part p).st = .inService ∧ (t.part p).resets = hold 16 (s.part p).resets 1 ∧ (t.part p).lastResetAt = some (s.die d).time
          ∧ (∀ k ∈ s.partCores p, (t.core k).ctx = none))
        ∧ (∀ c, s.hasPart p = true → (s.part p).resident = some c → (s.ctx c).st = .resident → ∃ t, exec (.partitionReset d first us env) s = .next t
          ∧ Due.l2 d first ∉ t.due ∧ (t.part p).st = .inService ∧ (t.part p).resets = hold 16 (s.part p).resets 1
          ∧ (((t.ctx c).st = .resident ∧ (t.part p).resumed = hold 8 (s.part p).resumed 1 ∧ (t.part p).aborted = hold 8 (s.part p).aborted 0)
            ∨ ((t.ctx c).st = .aborted ∧ (t.part p).aborted = hold 8 (s.part p).aborted 1 ∧ (t.part p).resumed = hold 8 (s.part p).resumed 0)))
        ∧ (s.hasPart p = false → s.owed = [] → (∀ y ∈ s.ports, ∀ q ∈ y.2.qps, q.2.held = []) → ∃ t, exec (.partitionReset d first us env) s = .next t ∧ Due.l2 d first ∉ t.due ∧ t.parts = s.parts
          ∧ (t.cluster d first).near = (s.cluster d first).near ∧ (t.cluster d first).tap = 0
          ∧ ∀ x ∈ s.choose d first 1, (t.core (68 * d + x)).ctx = none ∧ (t.core (68 * d + x)).hw.regs = CoreHw.init.regs))
    ∧ (∀ d us, d < s.model.dies → d ≠ s.fw.bootDie → Due.l3 d ∈ s.due → s.fenced d = false → ∃ t, exec (.dieFence d us) s = .next t
        ∧ t.fenced d = true ∧ (t.die d).railsOn = false ∧ (t.die d).dramOn = false ∧ Due.l3 d ∉ t.due
        ∧ (∀ a, bits a 44 42 = d → Mem.byte t.mem a = 0) ∧ t.power.alertLow = true ∧ bit t.i3c.alert 4 = true
        ∧ t.interrupted = s.interrupted + us
        ∧ ∀ c x, look s.ctxs c = some x → c / 1024 = d → x.st ≠ .free → (t.ctx c).st = .aborted)
    ∧ (∀ env, Due.l4 false ∈ s.due ∨ Due.l4 true ∈ s.due → s.power.standby = true →
        (s.power.resetN = false ∨ mayStart s env = false → ∃ t, exec (.moduleReset env) s = .next t ∧ t.power.pgood = false ∧ t.power.standby = true
          ∧ t.cores = [] ∧ t.clusters = [] ∧ t.parts = [] ∧ t.ctxs = [] ∧ t.objs = [] ∧ t.ports = [] ∧ t.keys = [] ∧ t.sess = [] ∧ t.taken = [] ∧ t.due = []
          ∧ (∀ d, (t.die d).railsOn = false)
          ∧ (∀ a, Mem.byte t.mem a = if 7 ≤ s.power.step ∧ keepsDram s a then Mem.byte s.mem a else 0)
          ∧ (Due.l4 true ∈ s.due → t.power.downAt.isSome = true))
        ∧ (s.power.resetN = true → mayStart s env = true → env.railFail = [] → env.norOk = true → s.nor.copy.entries = [] → env.lanes = [] → 0 ∉ env.noRef →
          0 ∈ env.cellarOk → 0 ∈ env.serdesOk →
          ∃ t, exec (.moduleReset env) s = .next t ∧ t.power.pgood = true ∧ t.power.step = 8 ∧ t.fw.bootDie = 0 ∧ t.fw.elected = true
            ∧ t.ctxs = [] ∧ t.sess = [] ∧ t.objs = [] ∧ (t.port 0).trying = true))

/-- The I3C target, while the standby rails are up (R40, R42, R523 to R525): it takes a dynamic address by ENTDAA or, with its
static one, by SETDASA, another by SETNEWDA, and loses it by RSTDAA; GETPID, GETBCR and GETDCR answer its characteristics
(log 15) and GETSTATUS two bytes that no rule gives; ENEC and DISEC set the interrupt; a write sets the offset; a read of
ALERT_STATUS answers and clears what is latched and releases ALERT_N, but for what is latched meanwhile; COMMAND calls
for a shutdown or an L4. -/
def Obligations.I3cTarget : Prop :=
  ∀ (s : State), s.power.standby = true →
    let x := s.i3c
    let puts := fun (y : I3c) => (Host.Outcome.next { s with i3c := y } : Res)
    let answers := fun (bs : Bytes) => (Host.Outcome.next (s.emit (.i3c bs)) : Res)
    (∀ a : BitVec 7, (x.dyn = none → exec (.entdaa a) s = puts { x with dyn := some a.toNat })
      ∧ (x.dyn ≠ none → exec (.entdaa a) s = .next s ∧ exec (.setnewda a) s = puts { x with dyn := some a.toNat })
      ∧ (x.dyn = none → exec (.setnewda a) s = .next s)
      ∧ (∀ st : BitVec 7, x.dyn = none → x.static = some st.toNat → exec (.setdasa st a) s = puts { x with dyn := some a.toNat })
      ∧ (∀ st : BitVec 7, x.dyn = none → x.static ≠ some st.toNat → exec (.setdasa st a) s = .next s))
    ∧ exec .rstdaa s = puts { x with dyn := none }
    ∧ exec .enec s = puts { x with ibi := true } ∧ exec .disec s = puts { x with ibi := false }
    ∧ (∀ off : BitVec 8, exec (.i3cOffsetWrite off) s = puts { x with off := off.toNat })
    ∧ (x.dyn ≠ none → exec .getpid s = answers (natLe 6 Config.i3cPid.toNat).reverse ∧ exec .getbcr s = answers [Config.i3cBcr]
      ∧ exec .getdcr s = answers [Config.i3cDcr]
      ∧ ∃ t bs, exec .getstatus s = .next t ∧ t = { s with out := s.out ++ [.i3c bs], free := s.free + 1 } ∧ bs.length = 2)
    ∧ (x.dyn = none → exec .getpid s = .next s ∧ exec .getbcr s = .next s ∧ exec .getdcr s = .next s ∧ exec .getstatus s = .next s)
    ∧ (∀ late : BitVec 8, x.off = 4 → ∃ t rest, exec (.alertStatusRead late) s = .next t ∧ t = { s with power := t.power, i3c := t.i3c, out := t.out }
        ∧ t.out = s.out ++ Out.i3c (natLe 4 x.alert) :: rest ∧ t.i3c.alert = late.toNat ∧ t.i3c.off = 8 ∧ t.power.alertLow = decide (late ≠ 0))
    ∧ (s.fw.inService = true → ∃ t, exec .i3cShutdown s = .next t ∧ t.fw.stopping = true ∧ t.sess = []
        ∧ ∀ c y, look s.ctxs c = some y → y.st ≠ .free → y.st ≠ .closing → s.fenced (c / 1024) = false → (t.ctx c).st = .aborted)
    ∧ (∃ t, exec .i3cRequestL4 s = .next t ∧ t = { s with due := t.due } ∧ Due.l4 false ∈ t.due ∧ ∀ r ∈ s.due, r ∈ t.due)

/-- REGISTER_WRITE of every register of a unit that is fitted completes, and what a register then reads (R17, R19, R66, R78, R112, R204, R232, R292, R396, R462, R468): a writable field takes its
bits, held to its range where the rule gives one; a 1 clears a capture's V and a 0 leaves it; error counts clear; a
register that only reads is not changed, and no other register is. -/
def Obligations.RegisterWrites : Prop :=
  ∀ (s : State) (v : BitVec 128),
    let n := v.toNat
    (∀ r, r.fitted s.model = true → ∃ t, exec (.registerWrite r v) s = .next t
      ∧ ((∀ d e, r ≠ .rackControl d e) → t = { s with power := t.power, dies := t.dies, clusters := t.clusters, cores := t.cores, ports := t.ports }))
    ∧ (∀ p, p < s.model.ports → ∃ t1 t2 t3, exec (.registerWrite (.portQos p) v) s = .next t1 ∧ exec (.registerWrite (.portDscp p) v) s = .next t2
      ∧ exec (.registerWrite (.portRatectl p) v) s = .next t3 ∧ t1 = { s with ports := t1.ports } ∧ t2 = { s with ports := t2.ports } ∧ t3 = { s with ports := t3.ports }
      ∧ readReg t1 (.portQos p) = bits n 23 16 * 65536 + bits n 14 3 * 8 ∧ readReg t3 (.portRatectl p) = bits n 31 6 * 64
      ∧ readReg t2 (.portDscp p) = bits n 29 24 * 2 ^ 24 + bits n 21 16 * 2 ^ 16 + bits n 13 8 * 2 ^ 8 + bits n 5 0
      ∧ readReg t1 (.portDscp p) = readReg s (.portDscp p) ∧ readReg t2 (.portQos p) = readReg s (.portQos p))
    ∧ (∀ c, fittedCore s c → ∃ t1 t2 t3, exec (.registerWrite (.coverControl c) v) s = .next t1 ∧ exec (.registerWrite (.syncBackoff c) v) s = .next t2
      ∧ exec (.registerWrite (.veControl c) v) s = .next t3 ∧ coreOnly s t1 (ck c) ∧ coreOnly s t2 (ck c) ∧ coreOnly s t3 (ck c)
      ∧ readReg t1 (.coverControl c) = n % 2 ^ 16 ∧ readReg t2 (.syncBackoff c) = n % 2 ^ 24 ∧ readReg t3 (.veControl c) = n % 2)
    ∧ (∀ c, fittedCore s c → ∃ t1 t2 t3 t4 t5, exec (.registerWrite (.opeSkew c) v) s = .next t1 ∧ exec (.registerWrite (.ccFault c) v) s = .next t2
      ∧ exec (.registerWrite (.veCheck c) v) s = .next t3 ∧ exec (.registerWrite (.syncTimeout c) v) s = .next t4 ∧ exec (.registerWrite (.syncUnfenced c) v) s = .next t5
      ∧ (let g := fun (t : State) => (t.core (ck c)).hw.regs
         (g t1).skew = { (g s).skew with valid := (g s).skew.valid && !bit n 63 } ∧ (g t2).stop = { (g s).stop with valid := (g s).stop.valid && !bit n 63 }
         ∧ (g t3).check = { (g s).check with valid := (g s).check.valid && !bit n 63 } ∧ (g t4).timeout = { (g s).timeout with valid := (g s).timeout.valid && !bit n 63 }
         ∧ (g t5).unfenced = { (g s).unfenced with valid := (g s).unfenced.valid && !bit n 63 })
      ∧ ∀ t ∈ [t1, t2, t3, t4, t5], coreOnly s t (ck c))
    ∧ (∀ d, d < s.model.dies → ∃ t1 t2, exec (.registerWrite (.healthHang d) v) s = .next t1 ∧ exec (.registerWrite (.ramp d) v) s = .next t2
      ∧ t1 = { s with dies := t1.dies } ∧ t2 = { s with dies := t2.dies } ∧ readReg t1 (.healthHang d) = Nat.max 50000 (Nat.min 25000000 (n % 2 ^ 25))
      ∧ readReg t2 (.ramp d) = (s.die d).adm * 2 ^ 24 + Nat.min 50 (bits n 15 8) * 2 ^ 8 + Nat.min 50 (bits n 7 0)
      ∧ (∀ k, k < 8 → ∃ t3 t4, exec (.registerWrite (.nearErrors d k) v) s = .next t3 ∧ exec (.registerWrite (.xlateFault d k) v) s = .next t4
        ∧ t3 = { s with clusters := t3.clusters } ∧ t4 = { s with clusters := t4.clusters } ∧ readReg t3 (.nearErrors d k) = 0
        ∧ (t4.cluster d k).xfault = { (s.cluster d k).xfault with valid := (s.cluster d k).xfault.valid && !bit n 63 })
      ∧ (∀ k, k < 16 → ∃ t3, exec (.registerWrite (.farErrors d k) v) s = .next t3 ∧ t3 = { s with dies := t3.dies } ∧ readReg t3 (.farErrors d k) = 0)
      ∧ (∀ k, k < 5 → ∃ t3, exec (.registerWrite (.cellarWdog d k) v) s = .next t3 ∧ t3 = { s with dies := t3.dies }
        ∧ readReg t3 (.cellarWdog d k) = bits n 31 16 * 65536 ∧ (cellarCore t3 d k).kick = (if bit n 0 then (s.die d).time else (cellarCore s d k).kick)
        ∧ readReg t3 (.cellarCore d k) = readReg s (.cellarCore d k)))
    ∧ exec (.registerWrite .guardStatus v) s = .next { s with power := { s.power with minSeen := 0xFFF } }
    ∧ (∃ t, exec (.registerWrite .guardConfig v) s = .next t ∧ t = { s with power := { s.power with cap := readReg t .guardConfig } }
      ∧ readReg t .guardConfig = Nat.max 50 (Nat.min 90 (n % 256)))
    ∧ (∀ c i, fittedCore s c → ∀ r ∈ [Reg.paceStatus c, .workBeats c, .coverBeats c, .opeConfig c, .opeStatus c, .opeBank c i, .opeRemap c i, .opeEscapes c,
        .tstoreErrors c, .fmtErrors c, .accFlags c, .accLast c, .accReadout c, .ccStatus c, .ccConsumed c, .ccRetired c, .ccFaultWord c, .ccMark c, .ccLc c i,
        .teIndex c, .veTrain c, .syncWaitState c, .syncWaitPolls c, .syncXlate c, .streamRing c i, .lateSlots c, .streamFlow c, .teOutstanding c,
        .guardCounts, .trellisStatus, .sessionStatus, .cellarBoot, .dieFence, .dumpStatus, .availCounts], exec (.registerWrite r v) s = .next s)

/-! ### Rules stated whole -/

/-- R48: the TAP of every die answers IDCODE 0x2A7C_19E7: version 2, part number 0xA7C1, manufacturer 0x4F3, bit 0 set. The scan brings it
out ahead of the registers of the dies nearer TDI. -/
def Obligations.IdcodeFields : Prop :=
  ∀ (d : Nat) (s : State), d < s.model.dies → s.power.standby = true →
    ∃ t bs before after, exec (.tapIdcode d) s = .next t ∧ t.out = s.out ++ [.tdo (before ++ bs ++ after)] ∧ (t.die d).tap.dr = bs ∧ bs.length = 32
      ∧ after = ((List.range d).reverse.flatMap (fun e => (s.die e).tap.scanned))
      ∧ bitsValue bs = 0x2A7C19E7 ∧ bits (bitsValue bs) 31 28 = 2 ∧ bits (bitsValue bs) 27 12 = 0xA7C1 ∧ bits (bitsValue bs) 11 1 = 0x4F3
      ∧ bit (bitsValue bs) 0 = true

/-- R118, R119 and R120: the values of the codes of EB4, of the same codes read as MXFP4, of B3 and of T2, and their escape codes. -/
def Obligations.RecordCodes : Prop :=
  let half := Val.fin false 1 2
  let nat := fun (n : Nat) => Val.fin false n 1
  let mags := [Val.zero, half, nat 1, .fin false 3 2, nat 2, nat 3, nat 4, nat 6]
  (∀ c, c < 8 → recVal 0x0B c = nth .nan mags c ∧ Fmt.e2m1.decode c = nth .nan mags c ∧ Fmt.e2m1.decode (8 + c) = (nth .nan mags c).neg
      ∧ (c ≠ 0 → recVal 0x0B (8 + c) = (nth .nan mags c).neg))
    ∧ (∀ c, c < 4 → recVal 0x0C c = nth .nan [Val.zero, half, nat 1, nat 2] c ∧ (c ≠ 0 → recVal 0x0C (4 + c) = (nth .nan [Val.zero, half, nat 1, nat 2] c).neg))
    ∧ recVal 0x0D 0 = .zero ∧ recVal 0x0D 1 = nat 1 ∧ recVal 0x0D 3 = (nat 1).neg
    ∧ escCode 0x0B = 8 ∧ escCode 0x0C = 4 ∧ escCode 0x0D = 2

/-- R403: the exponent byte of each 32-element block of a bucket, from the values S + E of its accumulation area: 0 when every
value is zero; 0xFF when any is NaN or an infinity; else floor(log2 amax) + 127 held within 1 to 254, where amax = n / d is
the largest magnitude. -/
def Obligations.WireExponents : Prop :=
  ∀ (s : State) (ctx : Nat) (b : Bucket) (k : Nat), k < b.len / 32 →
    let xs := (accPairs s ctx b.accum (4 * k) 4).1.map (fun c => c.1.value)
    ∃ a, (formScales s ctx b).1[k]? = some a
      ∧ ((∀ x ∈ xs, x.isZero = true) → a = 0)
      ∧ ((∃ x ∈ xs, x = .nan ∨ x = .inf false ∨ x = .inf true) → a = 0xFF)
      ∧ ∀ (sn : Bool) (n d : Nat), (∀ x ∈ xs, x.isFin = true) → Val.fin sn n d ∈ xs → 0 < n →
          (∀ sm m e, Val.fin sm m e ∈ xs → m * d ≤ n * e) →
          1 ≤ a ∧ a ≤ 254 ∧ (1 < a → d * 2 ^ a ≤ n * 2 ^ 127) ∧ (a < 254 → n * 2 ^ 127 < d * 2 ^ (a + 1))

/-- R387: the modes that a HOST_HELLO may name, and the role of the session that its proof opens. BOOT is admitted by the boot
responder only. -/
def Obligations.SessionModes : Prop :=
  ∀ (s : State) (h : Bytes),
    (s.fw.inService = true →
      (modeCode s 0 h = none ↔ owned s = true ∧ ∃ o, ownerOf s h = some o)
      ∧ (modeCode s 1 h = none ↔ owned s = true ∧ s.norView.pwAllowed = true)
      ∧ (modeCode s 2 h = none ↔ owned s = false)
      ∧ (∀ mode, 3 ≤ mode → modeCode s mode h ≠ none)
      ∧ ∀ (m : Datagram) (a : Attempt), listens s m.port = true → msgOk m 4 = true → 32 ≤ m.body.length →
          s.attempts.find? (fun a => a.ip == m.src.toNat) = some a → a.answer = none → a.mode ≤ 2 →
          ∃ t, exec (.hostProof m) s = .next t ∧ (proofCode s a (Config.kmac a.ss a.th2 256 cSession) m.body = none →
            ∃ x, look t.sess s.nextSess = some x ∧ (∀ o, a.mode = 0 → ownerOf s a.keyHash = some o → x.role = b2n o.admin)
              ∧ (a.mode = 1 → x.role = 0) ∧ (a.mode = 2 → x.role = 1)))
    ∧ (s.fw.inService = false → (modeCode s 3 h = none ↔ ¬(owned s = true ∧ s.norView.bootAuth = true)))

/-- R280: a write, or an atomic access, to a NEAR granule has set the DIRTY bit of its 4 KiB sector when it is done; the
granule's other bits and its frames stay. -/
def Obligations.DirtyBitsSet : Prop :=
  ∀ (s : State) (kc c va pa o g : Nat) (x : Obj) (e : Gran), look s.objs o = some x → x.grans[g]? = some e → e.st = .near →
    let marked := fun (t : State) => ∃ y z, look t.objs o = some y ∧ y.grans[g]? = some z
      ∧ z = { e with dirty := z.dirty } ∧ bit z.dirty (pa % 65536 / 4096) = true ∧ ∀ j, j ≠ pa % 65536 / 4096 → bit z.dirty j = bit e.dirty j
    (∀ bs bad slot, 0 < bs.length → va % 64 + bs.length ≤ 64 → locate s c va .write slot = .at_ pa o g → marked (wrVa s kc c va bs bad slot))
    ∧ (∀ v, locate s c va .atomic false = .at_ pa o g → marked (addVa s kc c va v).2)

/-- Decoding and rounding agree (R115, R116, R136, R139, R527): in every element format, the value of every finite code, rounded to
nearest even into the format, is that code again, and nothing is counted. The code 0x80 of MXINT8, which a conversion does
not write, is left out (R116). -/
def Obligations.CodesRoundTrip : Prop :=
  ∀ f ∈ formats, ∀ c, c < 2 ^ f.width → (f = .int8 → c ≠ 0x80) → (f.decode c).isFin = true → f.encode .rne (f.decode c) = (c, .plain)
end

