-- ==== Sys2Proof/Laws/Map.lean ====
section
/-! SUPPORT. The laws of the tables by number and of the byte memory: a read after a write, and that every operation on
the memory keeps its canonical form (log 4). -/

set_option autoImplicit false

namespace Sys2Proof.Machine

/-! ### Tables -/

@[simp] theorem get_put_self {α : Type} (d : α) (m : SMap α) (n : Nat) (v : α) : get d (put m n v) n = v := by
  induction m with
  | nil => simp [put, get]
  | cons p m ih =>
    obtain ⟨k, w⟩ := p
    unfold put
    split
    · simp [get]
    · split
      · simp [get]
      · rw [get, if_neg (by omega), ih]

theorem get_put_ne {α : Type} (d : α) (m : SMap α) (n j : Nat) (v : α) (h : j ≠ n) : get d (put m n v) j = get d m j := by
  induction m with
  | nil => simp [put, get, h]
  | cons p m ih =>
    obtain ⟨k, w⟩ := p
    unfold put
    split
    · rw [get, if_neg h]
    · split
      · rename_i h1 h2
        subst h2
        simp [get, h]
      · simp only [get, ih]

theorem get_put {α : Type} (d : α) (m : SMap α) (n j : Nat) (v : α) :
    get d (put m n v) j = if j = n then v else get d m j := by
  by_cases h : j = n
  · subst h; simp
  · simp [h, get_put_ne]

@[simp] theorem put_put {α : Type} (m : SMap α) (n : Nat) (v w : α) : put (put m n v) n w = put m n w := by
  induction m with
  | nil => simp [put]
  | cons p m ih =>
    obtain ⟨k, u⟩ := p
    by_cases h1 : n < k
    · simp [put, h1]
    · by_cases h2 : n = k
      · subst h2; simp [put]
      · simp only [put, if_neg h1, if_neg h2, ih]

theorem look_put {α : Type} (m : SMap α) (n j : Nat) (v : α) :
    look (put m n v) j = if j = n then some v else look m j := by
  induction m with
  | nil => simp [put, look]
  | cons p m ih =>
    obtain ⟨k, u⟩ := p
    by_cases h1 : n < k
    · simp only [put, if_pos h1, look]
    · by_cases h2 : n = k
      · subst h2
        by_cases h : j = n <;> simp [put, look, h]
      · simp only [put, if_neg h1, if_neg h2, look, ih]
        by_cases h : j = k
        · subst h; simp [Ne.symm h2]
        · simp [h]

theorem get_eq_look {α : Type} (d : α) (m : SMap α) (n : Nat) : get d m n = (look m n).getD d := by
  induction m with
  | nil => rfl
  | cons p m ih =>
    obtain ⟨k, u⟩ := p
    by_cases h : n = k <;> simp [get, look, h, ih]

theorem look_mapAll {α : Type} (m : SMap α) (f : Nat → α → α) (n : Nat) :
    look (mapAll m f) n = (look m n).map (f n) := by
  induction m with
  | nil => rfl
  | cons p m ih =>
    obtain ⟨k, u⟩ := p
    by_cases h : n = k
    · subst h; simp [mapAll, look]
    · simpa [mapAll, look, h] using ih

theorem get_del {α : Type} (d : α) (m : SMap α) (n j : Nat) : get d (del m n) j = if j = n then d else get d m j := by
  induction m with
  | nil => simp [del, get]
  | cons p m ih =>
    obtain ⟨k, u⟩ := p
    unfold del at *
    by_cases h : k = n
    · subst h
      by_cases hj : j = k
      · subst hj; simpa using ih
      · simpa [get, hj] using ih
    · by_cases hj : j = k
      · subst hj; simp [get, h]
      · simp only [List.filter_cons, bne_iff_ne, ne_eq, h, not_false_eq_true, if_true, get, if_neg hj, ih]

/-! ### The byte memory -/

theorem Mem.byte_set (m : Mem) (a b : Nat) (v : Byte) : Mem.byte (Mem.set m a v) b = if b = a then v else Mem.byte m b := by
  unfold Mem.byte Mem.set
  by_cases h : v = Mem.unlisted
  · simp [h, get_del]
  · simp [h, get_put]

theorem Mem.byte_setBytes_of_lt (m : Mem) (a : Nat) (bs : Bytes) (b : Nat) (h : b < a) :
    Mem.byte (Mem.setBytes m a bs) b = Mem.byte m b := by
  induction bs generalizing m a with
  | nil => rfl
  | cons v bs ih => rw [Mem.setBytes, ih _ _ (by omega), Mem.byte_set, if_neg (by omega)]

/-- A read after a write of a run: the run's byte inside it, the earlier byte outside. -/
theorem Mem.byte_setBytes (m : Mem) (a : Nat) (bs : Bytes) (b : Nat) :
    Mem.byte (Mem.setBytes m a bs) b = if a ≤ b then (bs[b - a]?).getD (Mem.byte m b) else Mem.byte m b := by
  induction bs generalizing m a with
  | nil => simp [Mem.setBytes]
  | cons v bs ih =>
    rw [Mem.setBytes, ih]
    by_cases h : a + 1 ≤ b
    · have h1 : b - a = (b - (a + 1)) + 1 := by omega
      rw [if_pos h, if_pos (by omega), Mem.byte_set, if_neg (by omega), h1, List.getElem?_cons_succ]
    · rw [if_neg h, Mem.byte_set]
      by_cases h2 : b = a
      · subst h2; simp
      · rw [if_neg h2, if_neg (by omega)]

theorem rising_cons {α : Type} (p : Nat × α) (m : List (Nat × α)) :
    rising (p :: m) = true ↔ (∀ q ∈ m, p.1 < q.1) ∧ rising m = true := by
  induction m generalizing p with
  | nil => simp [rising]
  | cons q m ih =>
    obtain ⟨a, v⟩ := p
    obtain ⟨b, w⟩ := q
    have tail : rising ((b, w) :: m) = true → ∀ r ∈ (b, w) :: m, b ≤ r.1 := fun h =>
      List.forall_mem_cons.2 ⟨Nat.le_refl b, fun r hr => Nat.le_of_lt ((ih _).1 h |>.1 r hr)⟩
    simp only [rising, Bool.and_eq_true, decide_eq_true_eq]
    exact and_congr_left fun h => ⟨fun l r hr => Nat.lt_of_lt_of_le l (tail h r hr), fun l => l _ List.mem_cons_self⟩

theorem rising_filter {α : Type} (m : List (Nat × α)) (f : Nat × α → Bool) (h : rising m = true) : rising (m.filter f) = true := by
  induction m with
  | nil => rfl
  | cons p m ih =>
    rw [rising_cons] at h
    rw [List.filter_cons]
    split
    · rw [rising_cons]
      exact ⟨fun q hq => h.1 q ((List.mem_filter.1 hq).1), ih h.2⟩
    · exact ih h.2

/-- An entry of a table after a write is the entry written or one that stood there. -/
theorem mem_put {α : Type} (m : SMap α) (n : Nat) (v : α) (q : Nat × α) : q ∈ put m n v → q = (n, v) ∨ q ∈ m := by
  induction m with
  | nil => simp [put]
  | cons p m ih =>
    obtain ⟨k, u⟩ := p
    by_cases lt : n < k
    · simp [put, lt]
    · by_cases same : n = k
      · subst same
        simp only [put, Nat.lt_irrefl, if_true, if_false, List.mem_cons]
        exact Or.imp_right Or.inr
      · simp only [put, lt, same, if_false, List.mem_cons]
        rintro (head | tail)
        · exact .inr (.inl head)
        · exact (ih tail).imp_right .inr

theorem rising_put {α : Type} (m : SMap α) (n : Nat) (v : α) (h : rising m = true) : rising (put m n v) = true := by
  induction m with
  | nil => rfl
  | cons p m ih =>
    obtain ⟨k, u⟩ := p
    obtain ⟨above, rest⟩ := (rising_cons _ _).1 h
    by_cases lt : n < k
    · rw [put, if_pos lt, rising_cons, rising_cons, List.forall_mem_cons]
      exact ⟨⟨lt, fun q hq => Nat.lt_trans lt (above q hq)⟩, above, rest⟩
    · by_cases same : n = k
      · subst same
        simp only [put, lt, if_true, if_false, rising_cons]
        exact ⟨above, rest⟩
      · simp only [put, lt, same, if_false, rising_cons]
        refine ⟨fun q hq => ?_, ih rest⟩
        obtain rfl | old := mem_put _ _ _ _ hq
        · exact Nat.lt_of_le_of_ne (Nat.le_of_not_lt lt) (Ne.symm same)
        · exact above q old

theorem Mem.wf_iff (m : Mem) : Mem.wf m = true ↔ rising m = true ∧ ∀ q ∈ m, q.2 ≠ Mem.unlisted := by
  simp [Mem.wf, List.all_eq_true]

theorem Mem.wf_filter (m : Mem) (f : Nat × Byte → Bool) (h : Mem.wf m = true) : Mem.wf (m.filter f) = true := by
  rw [Mem.wf_iff] at *
  exact ⟨rising_filter m f h.1, fun q hq => h.2 q ((List.mem_filter.1 hq).1)⟩

theorem Mem.wf_set (m : Mem) (a : Nat) (b : Byte) (h : Mem.wf m = true) : Mem.wf (Mem.set m a b) = true := by
  unfold Mem.set
  split
  · exact Mem.wf_filter m _ h
  · rename_i hb
    rw [Mem.wf_iff] at *
    refine ⟨rising_put m a b h.1, fun q hq => ?_⟩
    rcases mem_put _ _ _ _ hq with rfl | hq
    · exact hb
    · exact h.2 q hq

theorem Mem.wf_setBytes (m : Mem) (a : Nat) (bs : Bytes) (h : Mem.wf m = true) : Mem.wf (Mem.setBytes m a bs) = true := by
  induction bs generalizing m a with
  | nil => exact h
  | cons v bs ih => exact ih _ _ (Mem.wf_set m a v h)

theorem Mem.wf_keepMem (m : Mem) (f : Nat → Bool) (h : Mem.wf m = true) : Mem.wf (keepMem m f) = true := Mem.wf_filter m _ h

/-- What stays of the memory when some dies lose theirs. -/
theorem Mem.byte_keepMem (m : Mem) (f : Nat → Bool) (a : Nat) :
    Mem.byte (keepMem m f) a = if f (bits a 44 42) then Mem.byte m a else Mem.unlisted := by
  unfold Mem.byte keepMem
  induction m with
  | nil => simp [get]
  | cons p m ih =>
    obtain ⟨k, u⟩ := p
    by_cases h : a = k
    · subst h
      by_cases hf : f (bits a 44 42) = true
      · simp [hf, get]
      · have hf' : f (bits a 44 42) = false := by simpa using hf
        simp only [hf'] at ih ⊢
        simpa [hf'] using ih
    · by_cases hf : f (bits k 44 42) = true
      · simpa [hf, get, h] using ih
      · have hf' : f (bits k 44 42) = false := by simpa using hf
        simpa [hf', get, h] using ih

end Sys2Proof.Machine
end

