-- ==== Sys2Proof/Laws/State.lean ====
section
/-! SUPPORT. One lemma for each field and each update of State, true by rfl, and the reads after the updates. -/

set_option autoImplicit false

namespace Sys2Proof.Machine

@[simp] theorem State.setCore_model (s : State) (k : Nat) (x : Core) : (s.setCore k x).model = s.model := rfl
@[simp] theorem State.setCore_power (s : State) (k : Nat) (x : Core) : (s.setCore k x).power = s.power := rfl
@[simp] theorem State.setCore_i3c (s : State) (k : Nat) (x : Core) : (s.setCore k x).i3c = s.i3c := rfl
@[simp] theorem State.setCore_nor (s : State) (k : Nat) (x : Core) : (s.setCore k x).nor = s.nor := rfl
@[simp] theorem State.setCore_maps (s : State) (k : Nat) (x : Core) : (s.setCore k x).maps = s.maps := rfl
@[simp] theorem State.setCore_cursors (s : State) (k : Nat) (x : Core) : (s.setCore k x).cursors = s.cursors := rfl
@[simp] theorem State.setCore_dies (s : State) (k : Nat) (x : Core) : (s.setCore k x).dies = s.dies := rfl
@[simp] theorem State.setCore_clusters (s : State) (k : Nat) (x : Core) : (s.setCore k x).clusters = s.clusters := rfl
@[simp] theorem State.setCore_racks (s : State) (k : Nat) (x : Core) : (s.setCore k x).racks = s.racks := rfl
@[simp] theorem State.setCore_parts (s : State) (k : Nat) (x : Core) : (s.setCore k x).parts = s.parts := rfl
@[simp] theorem State.setCore_ctxs (s : State) (k : Nat) (x : Core) : (s.setCore k x).ctxs = s.ctxs := rfl
@[simp] theorem State.setCore_objs (s : State) (k : Nat) (x : Core) : (s.setCore k x).objs = s.objs := rfl
@[simp] theorem State.setCore_mem (s : State) (k : Nat) (x : Core) : (s.setCore k x).mem = s.mem := rfl
@[simp] theorem State.setCore_bad (s : State) (k : Nat) (x : Core) : (s.setCore k x).bad = s.bad := rfl
@[simp] theorem State.setCore_owed (s : State) (k : Nat) (x : Core) : (s.setCore k x).owed = s.owed := rfl
@[simp] theorem State.setCore_ports (s : State) (k : Nat) (x : Core) : (s.setCore k x).ports = s.ports := rfl
@[simp] theorem State.setCore_keys (s : State) (k : Nat) (x : Core) : (s.setCore k x).keys = s.keys := rfl
@[simp] theorem State.setCore_sess (s : State) (k : Nat) (x : Core) : (s.setCore k x).sess = s.sess := rfl
@[simp] theorem State.setCore_attempts (s : State) (k : Nat) (x : Core) : (s.setCore k x).attempts = s.attempts := rfl
@[simp] theorem State.setCore_reclaims (s : State) (k : Nat) (x : Core) : (s.setCore k x).reclaims = s.reclaims := rfl
@[simp] theorem State.setCore_taken (s : State) (k : Nat) (x : Core) : (s.setCore k x).taken = s.taken := rfl
@[simp] theorem State.setCore_nextUid (s : State) (k : Nat) (x : Core) : (s.setCore k x).nextUid = s.nextUid := rfl
@[simp] theorem State.setCore_nextSess (s : State) (k : Nat) (x : Core) : (s.setCore k x).nextSess = s.nextSess := rfl
@[simp] theorem State.setCore_tagDrops (s : State) (k : Nat) (x : Core) : (s.setCore k x).tagDrops = s.tagDrops := rfl
@[simp] theorem State.setCore_lockUntil (s : State) (k : Nat) (x : Core) : (s.setCore k x).lockUntil = s.lockUntil := rfl
@[simp] theorem State.setCore_fw (s : State) (k : Nat) (x : Core) : (s.setCore k x).fw = s.fw := rfl
@[simp] theorem State.setCore_trellis (s : State) (k : Nat) (x : Core) : (s.setCore k x).trellis = s.trellis := rfl
@[simp] theorem State.setCore_dump (s : State) (k : Nat) (x : Core) : (s.setCore k x).dump = s.dump := rfl
@[simp] theorem State.setCore_due (s : State) (k : Nat) (x : Core) : (s.setCore k x).due = s.due := rfl
@[simp] theorem State.setCore_out (s : State) (k : Nat) (x : Core) : (s.setCore k x).out = s.out := rfl
@[simp] theorem State.setCore_free (s : State) (k : Nat) (x : Core) : (s.setCore k x).free = s.free := rfl
@[simp] theorem State.setCore_pending (s : State) (k : Nat) (x : Core) : (s.setCore k x).pending = s.pending := rfl

@[simp] theorem State.setDie_model (s : State) (d : Nat) (x : Die) : (s.setDie d x).model = s.model := rfl
@[simp] theorem State.setDie_power (s : State) (d : Nat) (x : Die) : (s.setDie d x).power = s.power := rfl
@[simp] theorem State.setDie_i3c (s : State) (d : Nat) (x : Die) : (s.setDie d x).i3c = s.i3c := rfl
@[simp] theorem State.setDie_nor (s : State) (d : Nat) (x : Die) : (s.setDie d x).nor = s.nor := rfl
@[simp] theorem State.setDie_maps (s : State) (d : Nat) (x : Die) : (s.setDie d x).maps = s.maps := rfl
@[simp] theorem State.setDie_cursors (s : State) (d : Nat) (x : Die) : (s.setDie d x).cursors = s.cursors := rfl
@[simp] theorem State.setDie_cores (s : State) (d : Nat) (x : Die) : (s.setDie d x).cores = s.cores := rfl
@[simp] theorem State.setDie_clusters (s : State) (d : Nat) (x : Die) : (s.setDie d x).clusters = s.clusters := rfl
@[simp] theorem State.setDie_racks (s : State) (d : Nat) (x : Die) : (s.setDie d x).racks = s.racks := rfl
@[simp] theorem State.setDie_parts (s : State) (d : Nat) (x : Die) : (s.setDie d x).parts = s.parts := rfl
@[simp] theorem State.setDie_ctxs (s : State) (d : Nat) (x : Die) : (s.setDie d x).ctxs = s.ctxs := rfl
@[simp] theorem State.setDie_objs (s : State) (d : Nat) (x : Die) : (s.setDie d x).objs = s.objs := rfl
@[simp] theorem State.setDie_mem (s : State) (d : Nat) (x : Die) : (s.setDie d x).mem = s.mem := rfl
@[simp] theorem State.setDie_bad (s : State) (d : Nat) (x : Die) : (s.setDie d x).bad = s.bad := rfl
@[simp] theorem State.setDie_owed (s : State) (d : Nat) (x : Die) : (s.setDie d x).owed = s.owed := rfl
@[simp] theorem State.setDie_ports (s : State) (d : Nat) (x : Die) : (s.setDie d x).ports = s.ports := rfl
@[simp] theorem State.setDie_keys (s : State) (d : Nat) (x : Die) : (s.setDie d x).keys = s.keys := rfl
@[simp] theorem State.setDie_sess (s : State) (d : Nat) (x : Die) : (s.setDie d x).sess = s.sess := rfl
@[simp] theorem State.setDie_attempts (s : State) (d : Nat) (x : Die) : (s.setDie d x).attempts = s.attempts := rfl
@[simp] theorem State.setDie_reclaims (s : State) (d : Nat) (x : Die) : (s.setDie d x).reclaims = s.reclaims := rfl
@[simp] theorem State.setDie_taken (s : State) (d : Nat) (x : Die) : (s.setDie d x).taken = s.taken := rfl
@[simp] theorem State.setDie_nextUid (s : State) (d : Nat) (x : Die) : (s.setDie d x).nextUid = s.nextUid := rfl
@[simp] theorem State.setDie_nextSess (s : State) (d : Nat) (x : Die) : (s.setDie d x).nextSess = s.nextSess := rfl
@[simp] theorem State.setDie_tagDrops (s : State) (d : Nat) (x : Die) : (s.setDie d x).tagDrops = s.tagDrops := rfl
@[simp] theorem State.setDie_lockUntil (s : State) (d : Nat) (x : Die) : (s.setDie d x).lockUntil = s.lockUntil := rfl
@[simp] theorem State.setDie_fw (s : State) (d : Nat) (x : Die) : (s.setDie d x).fw = s.fw := rfl
@[simp] theorem State.setDie_trellis (s : State) (d : Nat) (x : Die) : (s.setDie d x).trellis = s.trellis := rfl
@[simp] theorem State.setDie_dump (s : State) (d : Nat) (x : Die) : (s.setDie d x).dump = s.dump := rfl
@[simp] theorem State.setDie_due (s : State) (d : Nat) (x : Die) : (s.setDie d x).due = s.due := rfl
@[simp] theorem State.setDie_out (s : State) (d : Nat) (x : Die) : (s.setDie d x).out = s.out := rfl
@[simp] theorem State.setDie_free (s : State) (d : Nat) (x : Die) : (s.setDie d x).free = s.free := rfl
@[simp] theorem State.setDie_pending (s : State) (d : Nat) (x : Die) : (s.setDie d x).pending = s.pending := rfl

@[simp] theorem State.setCluster_model (s : State) (d k : Nat) (x : Cluster) : (s.setCluster d k x).model = s.model := rfl
@[simp] theorem State.setCluster_power (s : State) (d k : Nat) (x : Cluster) : (s.setCluster d k x).power = s.power := rfl
@[simp] theorem State.setCluster_i3c (s : State) (d k : Nat) (x : Cluster) : (s.setCluster d k x).i3c = s.i3c := rfl
@[simp] theorem State.setCluster_nor (s : State) (d k : Nat) (x : Cluster) : (s.setCluster d k x).nor = s.nor := rfl
@[simp] theorem State.setCluster_maps (s : State) (d k : Nat) (x : Cluster) : (s.setCluster d k x).maps = s.maps := rfl
@[simp] theorem State.setCluster_cursors (s : State) (d k : Nat) (x : Cluster) : (s.setCluster d k x).cursors = s.cursors := rfl
@[simp] theorem State.setCluster_dies (s : State) (d k : Nat) (x : Cluster) : (s.setCluster d k x).dies = s.dies := rfl
@[simp] theorem State.setCluster_cores (s : State) (d k : Nat) (x : Cluster) : (s.setCluster d k x).cores = s.cores := rfl
@[simp] theorem State.setCluster_racks (s : State) (d k : Nat) (x : Cluster) : (s.setCluster d k x).racks = s.racks := rfl
@[simp] theorem State.setCluster_parts (s : State) (d k : Nat) (x : Cluster) : (s.setCluster d k x).parts = s.parts := rfl
@[simp] theorem State.setCluster_ctxs (s : State) (d k : Nat) (x : Cluster) : (s.setCluster d k x).ctxs = s.ctxs := rfl
@[simp] theorem State.setCluster_objs (s : State) (d k : Nat) (x : Cluster) : (s.setCluster d k x).objs = s.objs := rfl
@[simp] theorem State.setCluster_mem (s : State) (d k : Nat) (x : Cluster) : (s.setCluster d k x).mem = s.mem := rfl
@[simp] theorem State.setCluster_bad (s : State) (d k : Nat) (x : Cluster) : (s.setCluster d k x).bad = s.bad := rfl
@[simp] theorem State.setCluster_owed (s : State) (d k : Nat) (x : Cluster) : (s.setCluster d k x).owed = s.owed := rfl
@[simp] theorem State.setCluster_ports (s : State) (d k : Nat) (x : Cluster) : (s.setCluster d k x).ports = s.ports := rfl
@[simp] theorem State.setCluster_keys (s : State) (d k : Nat) (x : Cluster) : (s.setCluster d k x).keys = s.keys := rfl
@[simp] theorem State.setCluster_sess (s : State) (d k : Nat) (x : Cluster) : (s.setCluster d k x).sess = s.sess := rfl
@[simp] theorem State.setCluster_attempts (s : State) (d k : Nat) (x : Cluster) : (s.setCluster d k x).attempts = s.attempts := rfl
@[simp] theorem State.setCluster_reclaims (s : State) (d k : Nat) (x : Cluster) : (s.setCluster d k x).reclaims = s.reclaims := rfl
@[simp] theorem State.setCluster_taken (s : State) (d k : Nat) (x : Cluster) : (s.setCluster d k x).taken = s.taken := rfl
@[simp] theorem State.setCluster_nextUid (s : State) (d k : Nat) (x : Cluster) : (s.setCluster d k x).nextUid = s.nextUid := rfl
@[simp] theorem State.setCluster_nextSess (s : State) (d k : Nat) (x : Cluster) : (s.setCluster d k x).nextSess = s.nextSess := rfl
@[simp] theorem State.setCluster_tagDrops (s : State) (d k : Nat) (x : Cluster) : (s.setCluster d k x).tagDrops = s.tagDrops := rfl
@[simp] theorem State.setCluster_lockUntil (s : State) (d k : Nat) (x : Cluster) : (s.setCluster d k x).lockUntil = s.lockUntil := rfl
@[simp] theorem State.setCluster_fw (s : State) (d k : Nat) (x : Cluster) : (s.setCluster d k x).fw = s.fw := rfl
@[simp] theorem State.setCluster_trellis (s : State) (d k : Nat) (x : Cluster) : (s.setCluster d k x).trellis = s.trellis := rfl
@[simp] theorem State.setCluster_dump (s : State) (d k : Nat) (x : Cluster) : (s.setCluster d k x).dump = s.dump := rfl
@[simp] theorem State.setCluster_due (s : State) (d k : Nat) (x : Cluster) : (s.setCluster d k x).due = s.due := rfl
@[simp] theorem State.setCluster_out (s : State) (d k : Nat) (x : Cluster) : (s.setCluster d k x).out = s.out := rfl
@[simp] theorem State.setCluster_free (s : State) (d k : Nat) (x : Cluster) : (s.setCluster d k x).free = s.free := rfl
@[simp] theorem State.setCluster_pending (s : State) (d k : Nat) (x : Cluster) : (s.setCluster d k x).pending = s.pending := rfl

@[simp] theorem State.setRack_model (s : State) (d e : Nat) (x : Rack) : (s.setRack d e x).model = s.model := rfl
@[simp] theorem State.setRack_power (s : State) (d e : Nat) (x : Rack) : (s.setRack d e x).power = s.power := rfl
@[simp] theorem State.setRack_i3c (s : State) (d e : Nat) (x : Rack) : (s.setRack d e x).i3c = s.i3c := rfl
@[simp] theorem State.setRack_nor (s : State) (d e : Nat) (x : Rack) : (s.setRack d e x).nor = s.nor := rfl
@[simp] theorem State.setRack_maps (s : State) (d e : Nat) (x : Rack) : (s.setRack d e x).maps = s.maps := rfl
@[simp] theorem State.setRack_cursors (s : State) (d e : Nat) (x : Rack) : (s.setRack d e x).cursors = s.cursors := rfl
@[simp] theorem State.setRack_dies (s : State) (d e : Nat) (x : Rack) : (s.setRack d e x).dies = s.dies := rfl
@[simp] theorem State.setRack_cores (s : State) (d e : Nat) (x : Rack) : (s.setRack d e x).cores = s.cores := rfl
@[simp] theorem State.setRack_clusters (s : State) (d e : Nat) (x : Rack) : (s.setRack d e x).clusters = s.clusters := rfl
@[simp] theorem State.setRack_parts (s : State) (d e : Nat) (x : Rack) : (s.setRack d e x).parts = s.parts := rfl
@[simp] theorem State.setRack_ctxs (s : State) (d e : Nat) (x : Rack) : (s.setRack d e x).ctxs = s.ctxs := rfl
@[simp] theorem State.setRack_objs (s : State) (d e : Nat) (x : Rack) : (s.setRack d e x).objs = s.objs := rfl
@[simp] theorem State.setRack_mem (s : State) (d e : Nat) (x : Rack) : (s.setRack d e x).mem = s.mem := rfl
@[simp] theorem State.setRack_bad (s : State) (d e : Nat) (x : Rack) : (s.setRack d e x).bad = s.bad := rfl
@[simp] theorem State.setRack_owed (s : State) (d e : Nat) (x : Rack) : (s.setRack d e x).owed = s.owed := rfl
@[simp] theorem State.setRack_ports (s : State) (d e : Nat) (x : Rack) : (s.setRack d e x).ports = s.ports := rfl
@[simp] theorem State.setRack_keys (s : State) (d e : Nat) (x : Rack) : (s.setRack d e x).keys = s.keys := rfl
@[simp] theorem State.setRack_sess (s : State) (d e : Nat) (x : Rack) : (s.setRack d e x).sess = s.sess := rfl
@[simp] theorem State.setRack_attempts (s : State) (d e : Nat) (x : Rack) : (s.setRack d e x).attempts = s.attempts := rfl
@[simp] theorem State.setRack_reclaims (s : State) (d e : Nat) (x : Rack) : (s.setRack d e x).reclaims = s.reclaims := rfl
@[simp] theorem State.setRack_taken (s : State) (d e : Nat) (x : Rack) : (s.setRack d e x).taken = s.taken := rfl
@[simp] theorem State.setRack_nextUid (s : State) (d e : Nat) (x : Rack) : (s.setRack d e x).nextUid = s.nextUid := rfl
@[simp] theorem State.setRack_nextSess (s : State) (d e : Nat) (x : Rack) : (s.setRack d e x).nextSess = s.nextSess := rfl
@[simp] theorem State.setRack_tagDrops (s : State) (d e : Nat) (x : Rack) : (s.setRack d e x).tagDrops = s.tagDrops := rfl
@[simp] theorem State.setRack_lockUntil (s : State) (d e : Nat) (x : Rack) : (s.setRack d e x).lockUntil = s.lockUntil := rfl
@[simp] theorem State.setRack_fw (s : State) (d e : Nat) (x : Rack) : (s.setRack d e x).fw = s.fw := rfl
@[simp] theorem State.setRack_trellis (s : State) (d e : Nat) (x : Rack) : (s.setRack d e x).trellis = s.trellis := rfl
@[simp] theorem State.setRack_dump (s : State) (d e : Nat) (x : Rack) : (s.setRack d e x).dump = s.dump := rfl
@[simp] theorem State.setRack_due (s : State) (d e : Nat) (x : Rack) : (s.setRack d e x).due = s.due := rfl
@[simp] theorem State.setRack_out (s : State) (d e : Nat) (x : Rack) : (s.setRack d e x).out = s.out := rfl
@[simp] theorem State.setRack_free (s : State) (d e : Nat) (x : Rack) : (s.setRack d e x).free = s.free := rfl
@[simp] theorem State.setRack_pending (s : State) (d e : Nat) (x : Rack) : (s.setRack d e x).pending = s.pending := rfl

@[simp] theorem State.setPart_model (s : State) (p : Nat) (x : Part) : (s.setPart p x).model = s.model := rfl
@[simp] theorem State.setPart_power (s : State) (p : Nat) (x : Part) : (s.setPart p x).power = s.power := rfl
@[simp] theorem State.setPart_i3c (s : State) (p : Nat) (x : Part) : (s.setPart p x).i3c = s.i3c := rfl
@[simp] theorem State.setPart_nor (s : State) (p : Nat) (x : Part) : (s.setPart p x).nor = s.nor := rfl
@[simp] theorem State.setPart_maps (s : State) (p : Nat) (x : Part) : (s.setPart p x).maps = s.maps := rfl
@[simp] theorem State.setPart_cursors (s : State) (p : Nat) (x : Part) : (s.setPart p x).cursors = s.cursors := rfl
@[simp] theorem State.setPart_dies (s : State) (p : Nat) (x : Part) : (s.setPart p x).dies = s.dies := rfl
@[simp] theorem State.setPart_cores (s : State) (p : Nat) (x : Part) : (s.setPart p x).cores = s.cores := rfl
@[simp] theorem State.setPart_clusters (s : State) (p : Nat) (x : Part) : (s.setPart p x).clusters = s.clusters := rfl
@[simp] theorem State.setPart_racks (s : State) (p : Nat) (x : Part) : (s.setPart p x).racks = s.racks := rfl
@[simp] theorem State.setPart_ctxs (s : State) (p : Nat) (x : Part) : (s.setPart p x).ctxs = s.ctxs := rfl
@[simp] theorem State.setPart_objs (s : State) (p : Nat) (x : Part) : (s.setPart p x).objs = s.objs := rfl
@[simp] theorem State.setPart_mem (s : State) (p : Nat) (x : Part) : (s.setPart p x).mem = s.mem := rfl
@[simp] theorem State.setPart_bad (s : State) (p : Nat) (x : Part) : (s.setPart p x).bad = s.bad := rfl
@[simp] theorem State.setPart_owed (s : State) (p : Nat) (x : Part) : (s.setPart p x).owed = s.owed := rfl
@[simp] theorem State.setPart_ports (s : State) (p : Nat) (x : Part) : (s.setPart p x).ports = s.ports := rfl
@[simp] theorem State.setPart_keys (s : State) (p : Nat) (x : Part) : (s.setPart p x).keys = s.keys := rfl
@[simp] theorem State.setPart_sess (s : State) (p : Nat) (x : Part) : (s.setPart p x).sess = s.sess := rfl
@[simp] theorem State.setPart_attempts (s : State) (p : Nat) (x : Part) : (s.setPart p x).attempts = s.attempts := rfl
@[simp] theorem State.setPart_reclaims (s : State) (p : Nat) (x : Part) : (s.setPart p x).reclaims = s.reclaims := rfl
@[simp] theorem State.setPart_taken (s : State) (p : Nat) (x : Part) : (s.setPart p x).taken = s.taken := rfl
@[simp] theorem State.setPart_nextUid (s : State) (p : Nat) (x : Part) : (s.setPart p x).nextUid = s.nextUid := rfl
@[simp] theorem State.setPart_nextSess (s : State) (p : Nat) (x : Part) : (s.setPart p x).nextSess = s.nextSess := rfl
@[simp] theorem State.setPart_tagDrops (s : State) (p : Nat) (x : Part) : (s.setPart p x).tagDrops = s.tagDrops := rfl
@[simp] theorem State.setPart_lockUntil (s : State) (p : Nat) (x : Part) : (s.setPart p x).lockUntil = s.lockUntil := rfl
@[simp] theorem State.setPart_fw (s : State) (p : Nat) (x : Part) : (s.setPart p x).fw = s.fw := rfl
@[simp] theorem State.setPart_trellis (s : State) (p : Nat) (x : Part) : (s.setPart p x).trellis = s.trellis := rfl
@[simp] theorem State.setPart_dump (s : State) (p : Nat) (x : Part) : (s.setPart p x).dump = s.dump := rfl
@[simp] theorem State.setPart_due (s : State) (p : Nat) (x : Part) : (s.setPart p x).due = s.due := rfl
@[simp] theorem State.setPart_out (s : State) (p : Nat) (x : Part) : (s.setPart p x).out = s.out := rfl
@[simp] theorem State.setPart_free (s : State) (p : Nat) (x : Part) : (s.setPart p x).free = s.free := rfl
@[simp] theorem State.setPart_pending (s : State) (p : Nat) (x : Part) : (s.setPart p x).pending = s.pending := rfl

@[simp] theorem State.setCtx_model (s : State) (c : Nat) (x : Ctx) : (s.setCtx c x).model = s.model := rfl
@[simp] theorem State.setCtx_power (s : State) (c : Nat) (x : Ctx) : (s.setCtx c x).power = s.power := rfl
@[simp] theorem State.setCtx_i3c (s : State) (c : Nat) (x : Ctx) : (s.setCtx c x).i3c = s.i3c := rfl
@[simp] theorem State.setCtx_nor (s : State) (c : Nat) (x : Ctx) : (s.setCtx c x).nor = s.nor := rfl
@[simp] theorem State.setCtx_maps (s : State) (c : Nat) (x : Ctx) : (s.setCtx c x).maps = s.maps := rfl
@[simp] theorem State.setCtx_cursors (s : State) (c : Nat) (x : Ctx) : (s.setCtx c x).cursors = s.cursors := rfl
@[simp] theorem State.setCtx_dies (s : State) (c : Nat) (x : Ctx) : (s.setCtx c x).dies = s.dies := rfl
@[simp] theorem State.setCtx_cores (s : State) (c : Nat) (x : Ctx) : (s.setCtx c x).cores = s.cores := rfl
@[simp] theorem State.setCtx_clusters (s : State) (c : Nat) (x : Ctx) : (s.setCtx c x).clusters = s.clusters := rfl
@[simp] theorem State.setCtx_racks (s : State) (c : Nat) (x : Ctx) : (s.setCtx c x).racks = s.racks := rfl
@[simp] theorem State.setCtx_parts (s : State) (c : Nat) (x : Ctx) : (s.setCtx c x).parts = s.parts := rfl
@[simp] theorem State.setCtx_objs (s : State) (c : Nat) (x : Ctx) : (s.setCtx c x).objs = s.objs := rfl
@[simp] theorem State.setCtx_mem (s : State) (c : Nat) (x : Ctx) : (s.setCtx c x).mem = s.mem := rfl
@[simp] theorem State.setCtx_bad (s : State) (c : Nat) (x : Ctx) : (s.setCtx c x).bad = s.bad := rfl
@[simp] theorem State.setCtx_owed (s : State) (c : Nat) (x : Ctx) : (s.setCtx c x).owed = s.owed := rfl
@[simp] theorem State.setCtx_ports (s : State) (c : Nat) (x : Ctx) : (s.setCtx c x).ports = s.ports := rfl
@[simp] theorem State.setCtx_keys (s : State) (c : Nat) (x : Ctx) : (s.setCtx c x).keys = s.keys := rfl
@[simp] theorem State.setCtx_sess (s : State) (c : Nat) (x : Ctx) : (s.setCtx c x).sess = s.sess := rfl
@[simp] theorem State.setCtx_attempts (s : State) (c : Nat) (x : Ctx) : (s.setCtx c x).attempts = s.attempts := rfl
@[simp] theorem State.setCtx_reclaims (s : State) (c : Nat) (x : Ctx) : (s.setCtx c x).reclaims = s.reclaims := rfl
@[simp] theorem State.setCtx_taken (s : State) (c : Nat) (x : Ctx) : (s.setCtx c x).taken = s.taken := rfl
@[simp] theorem State.setCtx_nextUid (s : State) (c : Nat) (x : Ctx) : (s.setCtx c x).nextUid = s.nextUid := rfl
@[simp] theorem State.setCtx_nextSess (s : State) (c : Nat) (x : Ctx) : (s.setCtx c x).nextSess = s.nextSess := rfl
@[simp] theorem State.setCtx_tagDrops (s : State) (c : Nat) (x : Ctx) : (s.setCtx c x).tagDrops = s.tagDrops := rfl
@[simp] theorem State.setCtx_lockUntil (s : State) (c : Nat) (x : Ctx) : (s.setCtx c x).lockUntil = s.lockUntil := rfl
@[simp] theorem State.setCtx_fw (s : State) (c : Nat) (x : Ctx) : (s.setCtx c x).fw = s.fw := rfl
@[simp] theorem State.setCtx_trellis (s : State) (c : Nat) (x : Ctx) : (s.setCtx c x).trellis = s.trellis := rfl
@[simp] theorem State.setCtx_dump (s : State) (c : Nat) (x : Ctx) : (s.setCtx c x).dump = s.dump := rfl
@[simp] theorem State.setCtx_due (s : State) (c : Nat) (x : Ctx) : (s.setCtx c x).due = s.due := rfl
@[simp] theorem State.setCtx_out (s : State) (c : Nat) (x : Ctx) : (s.setCtx c x).out = s.out := rfl
@[simp] theorem State.setCtx_free (s : State) (c : Nat) (x : Ctx) : (s.setCtx c x).free = s.free := rfl
@[simp] theorem State.setCtx_pending (s : State) (c : Nat) (x : Ctx) : (s.setCtx c x).pending = s.pending := rfl

@[simp] theorem State.setPort_model (s : State) (p : Nat) (x : Port) : (s.setPort p x).model = s.model := rfl
@[simp] theorem State.setPort_power (s : State) (p : Nat) (x : Port) : (s.setPort p x).power = s.power := rfl
@[simp] theorem State.setPort_i3c (s : State) (p : Nat) (x : Port) : (s.setPort p x).i3c = s.i3c := rfl
@[simp] theorem State.setPort_nor (s : State) (p : Nat) (x : Port) : (s.setPort p x).nor = s.nor := rfl
@[simp] theorem State.setPort_maps (s : State) (p : Nat) (x : Port) : (s.setPort p x).maps = s.maps := rfl
@[simp] theorem State.setPort_cursors (s : State) (p : Nat) (x : Port) : (s.setPort p x).cursors = s.cursors := rfl
@[simp] theorem State.setPort_dies (s : State) (p : Nat) (x : Port) : (s.setPort p x).dies = s.dies := rfl
@[simp] theorem State.setPort_cores (s : State) (p : Nat) (x : Port) : (s.setPort p x).cores = s.cores := rfl
@[simp] theorem State.setPort_clusters (s : State) (p : Nat) (x : Port) : (s.setPort p x).clusters = s.clusters := rfl
@[simp] theorem State.setPort_racks (s : State) (p : Nat) (x : Port) : (s.setPort p x).racks = s.racks := rfl
@[simp] theorem State.setPort_parts (s : State) (p : Nat) (x : Port) : (s.setPort p x).parts = s.parts := rfl
@[simp] theorem State.setPort_ctxs (s : State) (p : Nat) (x : Port) : (s.setPort p x).ctxs = s.ctxs := rfl
@[simp] theorem State.setPort_objs (s : State) (p : Nat) (x : Port) : (s.setPort p x).objs = s.objs := rfl
@[simp] theorem State.setPort_mem (s : State) (p : Nat) (x : Port) : (s.setPort p x).mem = s.mem := rfl
@[simp] theorem State.setPort_bad (s : State) (p : Nat) (x : Port) : (s.setPort p x).bad = s.bad := rfl
@[simp] theorem State.setPort_owed (s : State) (p : Nat) (x : Port) : (s.setPort p x).owed = s.owed := rfl
@[simp] theorem State.setPort_keys (s : State) (p : Nat) (x : Port) : (s.setPort p x).keys = s.keys := rfl
@[simp] theorem State.setPort_sess (s : State) (p : Nat) (x : Port) : (s.setPort p x).sess = s.sess := rfl
@[simp] theorem State.setPort_attempts (s : State) (p : Nat) (x : Port) : (s.setPort p x).attempts = s.attempts := rfl
@[simp] theorem State.setPort_reclaims (s : State) (p : Nat) (x : Port) : (s.setPort p x).reclaims = s.reclaims := rfl
@[simp] theorem State.setPort_taken (s : State) (p : Nat) (x : Port) : (s.setPort p x).taken = s.taken := rfl
@[simp] theorem State.setPort_nextUid (s : State) (p : Nat) (x : Port) : (s.setPort p x).nextUid = s.nextUid := rfl
@[simp] theorem State.setPort_nextSess (s : State) (p : Nat) (x : Port) : (s.setPort p x).nextSess = s.nextSess := rfl
@[simp] theorem State.setPort_tagDrops (s : State) (p : Nat) (x : Port) : (s.setPort p x).tagDrops = s.tagDrops := rfl
@[simp] theorem State.setPort_lockUntil (s : State) (p : Nat) (x : Port) : (s.setPort p x).lockUntil = s.lockUntil := rfl
@[simp] theorem State.setPort_fw (s : State) (p : Nat) (x : Port) : (s.setPort p x).fw = s.fw := rfl
@[simp] theorem State.setPort_trellis (s : State) (p : Nat) (x : Port) : (s.setPort p x).trellis = s.trellis := rfl
@[simp] theorem State.setPort_dump (s : State) (p : Nat) (x : Port) : (s.setPort p x).dump = s.dump := rfl
@[simp] theorem State.setPort_due (s : State) (p : Nat) (x : Port) : (s.setPort p x).due = s.due := rfl
@[simp] theorem State.setPort_out (s : State) (p : Nat) (x : Port) : (s.setPort p x).out = s.out := rfl
@[simp] theorem State.setPort_free (s : State) (p : Nat) (x : Port) : (s.setPort p x).free = s.free := rfl
@[simp] theorem State.setPort_pending (s : State) (p : Nat) (x : Port) : (s.setPort p x).pending = s.pending := rfl

@[simp] theorem State.emit_model (s : State) (o : Out) : (s.emit o).model = s.model := rfl
@[simp] theorem State.emit_power (s : State) (o : Out) : (s.emit o).power = s.power := rfl
@[simp] theorem State.emit_i3c (s : State) (o : Out) : (s.emit o).i3c = s.i3c := rfl
@[simp] theorem State.emit_nor (s : State) (o : Out) : (s.emit o).nor = s.nor := rfl
@[simp] theorem State.emit_maps (s : State) (o : Out) : (s.emit o).maps = s.maps := rfl
@[simp] theorem State.emit_cursors (s : State) (o : Out) : (s.emit o).cursors = s.cursors := rfl
@[simp] theorem State.emit_dies (s : State) (o : Out) : (s.emit o).dies = s.dies := rfl
@[simp] theorem State.emit_cores (s : State) (o : Out) : (s.emit o).cores = s.cores := rfl
@[simp] theorem State.emit_clusters (s : State) (o : Out) : (s.emit o).clusters = s.clusters := rfl
@[simp] theorem State.emit_racks (s : State) (o : Out) : (s.emit o).racks = s.racks := rfl
@[simp] theorem State.emit_parts (s : State) (o : Out) : (s.emit o).parts = s.parts := rfl
@[simp] theorem State.emit_ctxs (s : State) (o : Out) : (s.emit o).ctxs = s.ctxs := rfl
@[simp] theorem State.emit_objs (s : State) (o : Out) : (s.emit o).objs = s.objs := rfl
@[simp] theorem State.emit_mem (s : State) (o : Out) : (s.emit o).mem = s.mem := rfl
@[simp] theorem State.emit_bad (s : State) (o : Out) : (s.emit o).bad = s.bad := rfl
@[simp] theorem State.emit_owed (s : State) (o : Out) : (s.emit o).owed = s.owed := rfl
@[simp] theorem State.emit_ports (s : State) (o : Out) : (s.emit o).ports = s.ports := rfl
@[simp] theorem State.emit_keys (s : State) (o : Out) : (s.emit o).keys = s.keys := rfl
@[simp] theorem State.emit_sess (s : State) (o : Out) : (s.emit o).sess = s.sess := rfl
@[simp] theorem State.emit_attempts (s : State) (o : Out) : (s.emit o).attempts = s.attempts := rfl
@[simp] theorem State.emit_reclaims (s : State) (o : Out) : (s.emit o).reclaims = s.reclaims := rfl
@[simp] theorem State.emit_taken (s : State) (o : Out) : (s.emit o).taken = s.taken := rfl
@[simp] theorem State.emit_nextUid (s : State) (o : Out) : (s.emit o).nextUid = s.nextUid := rfl
@[simp] theorem State.emit_nextSess (s : State) (o : Out) : (s.emit o).nextSess = s.nextSess := rfl
@[simp] theorem State.emit_tagDrops (s : State) (o : Out) : (s.emit o).tagDrops = s.tagDrops := rfl
@[simp] theorem State.emit_lockUntil (s : State) (o : Out) : (s.emit o).lockUntil = s.lockUntil := rfl
@[simp] theorem State.emit_fw (s : State) (o : Out) : (s.emit o).fw = s.fw := rfl
@[simp] theorem State.emit_trellis (s : State) (o : Out) : (s.emit o).trellis = s.trellis := rfl
@[simp] theorem State.emit_dump (s : State) (o : Out) : (s.emit o).dump = s.dump := rfl
@[simp] theorem State.emit_due (s : State) (o : Out) : (s.emit o).due = s.due := rfl
@[simp] theorem State.emit_free (s : State) (o : Out) : (s.emit o).free = s.free := rfl
@[simp] theorem State.emit_pending (s : State) (o : Out) : (s.emit o).pending = s.pending := rfl

@[simp] theorem State.core_setCore (s : State) (k : Nat) (x : Core) : (s.setCore k x).core k = x := get_put_self _ _ _ _

theorem State.core_setCore_ne (s : State) (k : Nat) (x : Core) (j : Nat) (h : j ≠ k) : (s.setCore k x).core j = s.core j :=
  get_put_ne _ _ _ _ _ h

@[simp] theorem State.setCore_setCore (s : State) (k : Nat) (x : Core) (y : Core) : (s.setCore k x).setCore k y = s.setCore k y := by
  simp [State.setCore]

@[simp] theorem State.die_setDie (s : State) (d : Nat) (x : Die) : (s.setDie d x).die d = x := get_put_self _ _ _ _

theorem State.die_setDie_ne (s : State) (d : Nat) (x : Die) (j : Nat) (h : j ≠ d) : (s.setDie d x).die j = s.die j :=
  get_put_ne _ _ _ _ _ h

@[simp] theorem State.setDie_setDie (s : State) (d : Nat) (x : Die) (y : Die) : (s.setDie d x).setDie d y = s.setDie d y := by
  simp [State.setDie]

@[simp] theorem State.part_setPart (s : State) (p : Nat) (x : Part) : (s.setPart p x).part p = x := get_put_self _ _ _ _

theorem State.part_setPart_ne (s : State) (p : Nat) (x : Part) (j : Nat) (h : j ≠ p) : (s.setPart p x).part j = s.part j :=
  get_put_ne _ _ _ _ _ h

@[simp] theorem State.setPart_setPart (s : State) (p : Nat) (x : Part) (y : Part) : (s.setPart p x).setPart p y = s.setPart p y := by
  simp [State.setPart]

@[simp] theorem State.ctx_setCtx (s : State) (c : Nat) (x : Ctx) : (s.setCtx c x).ctx c = x := get_put_self _ _ _ _

theorem State.ctx_setCtx_ne (s : State) (c : Nat) (x : Ctx) (j : Nat) (h : j ≠ c) : (s.setCtx c x).ctx j = s.ctx j :=
  get_put_ne _ _ _ _ _ h

@[simp] theorem State.setCtx_setCtx (s : State) (c : Nat) (x : Ctx) (y : Ctx) : (s.setCtx c x).setCtx c y = s.setCtx c y := by
  simp [State.setCtx]

@[simp] theorem State.port_setPort (s : State) (p : Nat) (x : Port) : (s.setPort p x).port p = x := get_put_self _ _ _ _

theorem State.port_setPort_ne (s : State) (p : Nat) (x : Port) (j : Nat) (h : j ≠ p) : (s.setPort p x).port j = s.port j :=
  get_put_ne _ _ _ _ _ h

@[simp] theorem State.setPort_setPort (s : State) (p : Nat) (x : Port) (y : Port) : (s.setPort p x).setPort p y = s.setPort p y := by
  simp [State.setPort]

@[simp] theorem State.die_setCore (s : State) (k : Nat) (x : Core) (j : Nat) : (s.setCore k x).die j = s.die j := rfl
@[simp] theorem State.part_setCore (s : State) (k : Nat) (x : Core) (j : Nat) : (s.setCore k x).part j = s.part j := rfl
@[simp] theorem State.ctx_setCore (s : State) (k : Nat) (x : Core) (j : Nat) : (s.setCore k x).ctx j = s.ctx j := rfl
@[simp] theorem State.port_setCore (s : State) (k : Nat) (x : Core) (j : Nat) : (s.setCore k x).port j = s.port j := rfl
@[simp] theorem State.cluster_setCore (s : State) (k : Nat) (x : Core) (i j : Nat) : (s.setCore k x).cluster i j = s.cluster i j := rfl
@[simp] theorem State.rack_setCore (s : State) (k : Nat) (x : Core) (i j : Nat) : (s.setCore k x).rack i j = s.rack i j := rfl
@[simp] theorem State.core_setDie (s : State) (d : Nat) (x : Die) (j : Nat) : (s.setDie d x).core j = s.core j := rfl
@[simp] theorem State.part_setDie (s : State) (d : Nat) (x : Die) (j : Nat) : (s.setDie d x).part j = s.part j := rfl
@[simp] theorem State.ctx_setDie (s : State) (d : Nat) (x : Die) (j : Nat) : (s.setDie d x).ctx j = s.ctx j := rfl
@[simp] theorem State.port_setDie (s : State) (d : Nat) (x : Die) (j : Nat) : (s.setDie d x).port j = s.port j := rfl
@[simp] theorem State.cluster_setDie (s : State) (d : Nat) (x : Die) (i j : Nat) : (s.setDie d x).cluster i j = s.cluster i j := rfl
@[simp] theorem State.rack_setDie (s : State) (d : Nat) (x : Die) (i j : Nat) : (s.setDie d x).rack i j = s.rack i j := rfl
@[simp] theorem State.core_setPart (s : State) (p : Nat) (x : Part) (j : Nat) : (s.setPart p x).core j = s.core j := rfl
@[simp] theorem State.die_setPart (s : State) (p : Nat) (x : Part) (j : Nat) : (s.setPart p x).die j = s.die j := rfl
@[simp] theorem State.ctx_setPart (s : State) (p : Nat) (x : Part) (j : Nat) : (s.setPart p x).ctx j = s.ctx j := rfl
@[simp] theorem State.port_setPart (s : State) (p : Nat) (x : Part) (j : Nat) : (s.setPart p x).port j = s.port j := rfl
@[simp] theorem State.cluster_setPart (s : State) (p : Nat) (x : Part) (i j : Nat) : (s.setPart p x).cluster i j = s.cluster i j := rfl
@[simp] theorem State.rack_setPart (s : State) (p : Nat) (x : Part) (i j : Nat) : (s.setPart p x).rack i j = s.rack i j := rfl
@[simp] theorem State.core_setCtx (s : State) (c : Nat) (x : Ctx) (j : Nat) : (s.setCtx c x).core j = s.core j := rfl
@[simp] theorem State.die_setCtx (s : State) (c : Nat) (x : Ctx) (j : Nat) : (s.setCtx c x).die j = s.die j := rfl
@[simp] theorem State.part_setCtx (s : State) (c : Nat) (x : Ctx) (j : Nat) : (s.setCtx c x).part j = s.part j := rfl
@[simp] theorem State.port_setCtx (s : State) (c : Nat) (x : Ctx) (j : Nat) : (s.setCtx c x).port j = s.port j := rfl
@[simp] theorem State.cluster_setCtx (s : State) (c : Nat) (x : Ctx) (i j : Nat) : (s.setCtx c x).cluster i j = s.cluster i j := rfl
@[simp] theorem State.rack_setCtx (s : State) (c : Nat) (x : Ctx) (i j : Nat) : (s.setCtx c x).rack i j = s.rack i j := rfl
@[simp] theorem State.core_setPort (s : State) (p : Nat) (x : Port) (j : Nat) : (s.setPort p x).core j = s.core j := rfl
@[simp] theorem State.die_setPort (s : State) (p : Nat) (x : Port) (j : Nat) : (s.setPort p x).die j = s.die j := rfl
@[simp] theorem State.part_setPort (s : State) (p : Nat) (x : Port) (j : Nat) : (s.setPort p x).part j = s.part j := rfl
@[simp] theorem State.ctx_setPort (s : State) (p : Nat) (x : Port) (j : Nat) : (s.setPort p x).ctx j = s.ctx j := rfl
@[simp] theorem State.cluster_setPort (s : State) (p : Nat) (x : Port) (i j : Nat) : (s.setPort p x).cluster i j = s.cluster i j := rfl
@[simp] theorem State.rack_setPort (s : State) (p : Nat) (x : Port) (i j : Nat) : (s.setPort p x).rack i j = s.rack i j := rfl
@[simp] theorem State.core_setCluster (s : State) (d k : Nat) (x : Cluster) (j : Nat) : (s.setCluster d k x).core j = s.core j := rfl
@[simp] theorem State.die_setCluster (s : State) (d k : Nat) (x : Cluster) (j : Nat) : (s.setCluster d k x).die j = s.die j := rfl
@[simp] theorem State.part_setCluster (s : State) (d k : Nat) (x : Cluster) (j : Nat) : (s.setCluster d k x).part j = s.part j := rfl
@[simp] theorem State.ctx_setCluster (s : State) (d k : Nat) (x : Cluster) (j : Nat) : (s.setCluster d k x).ctx j = s.ctx j := rfl
@[simp] theorem State.port_setCluster (s : State) (d k : Nat) (x : Cluster) (j : Nat) : (s.setCluster d k x).port j = s.port j := rfl
@[simp] theorem State.rack_setCluster (s : State) (d k : Nat) (x : Cluster) (i j : Nat) : (s.setCluster d k x).rack i j = s.rack i j := rfl
@[simp] theorem State.core_setRack (s : State) (d e : Nat) (x : Rack) (j : Nat) : (s.setRack d e x).core j = s.core j := rfl
@[simp] theorem State.die_setRack (s : State) (d e : Nat) (x : Rack) (j : Nat) : (s.setRack d e x).die j = s.die j := rfl
@[simp] theorem State.part_setRack (s : State) (d e : Nat) (x : Rack) (j : Nat) : (s.setRack d e x).part j = s.part j := rfl
@[simp] theorem State.ctx_setRack (s : State) (d e : Nat) (x : Rack) (j : Nat) : (s.setRack d e x).ctx j = s.ctx j := rfl
@[simp] theorem State.port_setRack (s : State) (d e : Nat) (x : Rack) (j : Nat) : (s.setRack d e x).port j = s.port j := rfl
@[simp] theorem State.cluster_setRack (s : State) (d e : Nat) (x : Rack) (i j : Nat) : (s.setRack d e x).cluster i j = s.cluster i j := rfl
@[simp] theorem State.core_emit (s : State) (o : Out) (j : Nat) : (s.emit o).core j = s.core j := rfl
@[simp] theorem State.die_emit (s : State) (o : Out) (j : Nat) : (s.emit o).die j = s.die j := rfl
@[simp] theorem State.part_emit (s : State) (o : Out) (j : Nat) : (s.emit o).part j = s.part j := rfl
@[simp] theorem State.ctx_emit (s : State) (o : Out) (j : Nat) : (s.emit o).ctx j = s.ctx j := rfl
@[simp] theorem State.port_emit (s : State) (o : Out) (j : Nat) : (s.emit o).port j = s.port j := rfl
@[simp] theorem State.cluster_emit (s : State) (o : Out) (i j : Nat) : (s.emit o).cluster i j = s.cluster i j := rfl
@[simp] theorem State.rack_emit (s : State) (o : Out) (i j : Nat) : (s.emit o).rack i j = s.rack i j := rfl

@[simp] theorem State.cluster_setCluster (s : State) (d k : Nat) (x : Cluster) : (s.setCluster d k x).cluster d k = x :=
  get_put_self _ _ _ _

@[simp] theorem State.rack_setRack (s : State) (d e : Nat) (x : Rack) : (s.setRack d e x).rack d e = x :=
  get_put_self _ _ _ _

/-- A change of a core: that core changes, no other, and nothing else of the state. -/
theorem State.core_onC (s : State) (k j : Nat) (f : Core → Core) :
    (s.onC k f).core j = if j = k then f (s.core k) else s.core j := by
  unfold State.onC
  by_cases h : j = k
  · subst h; simp
  · rw [if_neg h, State.core_setCore_ne _ _ _ _ h]

@[simp] theorem State.onC_onC (s : State) (k : Nat) (f g : Core → Core) : (s.onC k f).onC k g = s.onC k (fun c => g (f c)) := by
  simp [State.onC]

end Sys2Proof.Machine
end

