-- ==== Sys2Proof/Laws/Ops.lean ====
section
/-! SUPPORT. What the shared operations of Machine/Ops.lean leave as it was, and what the memory channels do (R224,
R267, R290): every operation but the writes keeps the memory; a write and an add keep its canonical form (log 4). -/

set_option autoImplicit false

namespace Sys2Proof.Machine

/-- Folding an operation that keeps a field keeps the field. -/
theorem foldl_keeps {α β : Type} (f : State → α → State) (g : State → β) (h : ∀ s a, g (f s a) = g s) (l : List α) (s : State) :
    g (l.foldl f s) = g s := by
  induction l generalizing s with
  | nil => rfl
  | cons a l ih => simp [ih, h]

/-- What the operations on counters, registers, logs and reports leave alone: memory, the queue and the model. -/
def what (s : State) : Mem × List Instr × Model := (s.mem, s.pending, s.model)

@[simp] theorem alert_keeps (s : State) (b : Nat) :
    (alert s b).mem = s.mem ∧ (alert s b).pending = s.pending ∧ (alert s b).model = s.model := by
  unfold alert
  dsimp only
  (repeat' split) <;> simp

@[simp] theorem report_keeps (s : State) (f : Fault64) :
    (report s f).mem = s.mem ∧ (report s f).pending = s.pending ∧ (report s f).model = s.model := by
  unfold report
  dsimp only
  (repeat' split) <;> simp

@[simp] theorem State.setSess_keeps (s : State) (id : Nat) (x : Session) :
    (s.setSess id x).mem = s.mem ∧ (s.setSess id x).pending = s.pending ∧ (s.setSess id x).model = s.model := by
  simp [State.setSess]

@[simp] theorem postEvent_keeps (s : State) (c : Option Nat) (d t : Nat) (b : Bytes) :
    (postEvent s c d t b).mem = s.mem ∧ (postEvent s c d t b).pending = s.pending ∧ (postEvent s c d t b).model = s.model := by
  unfold postEvent
  cases c with
  | some c => dsimp only; split <;> simp
  | none =>
    have h : what (s.onOpen (fun x => eventTo x t d (s.die d).time b)) = what s := foldl_keeps _ what (fun s i => by
      unfold what; (repeat' split) <;> simp) _ _
    simpa [what] using h

@[simp] theorem ctxEvent_keeps (s : State) (c cause : Nat) :
    (ctxEvent s c cause).mem = s.mem ∧ (ctxEvent s c cause).pending = s.pending ∧ (ctxEvent s c cause).model = s.model := by
  simp [ctxEvent]

@[simp] theorem setCtxSt_keeps (s : State) (c : Nat) (st : CtxSt) (cause : Nat) :
    (setCtxSt s c st cause).mem = s.mem ∧ (setCtxSt s c st cause).pending = s.pending ∧ (setCtxSt s c st cause).model = s.model := by
  simp [setCtxSt]

@[simp] theorem complete_keeps (s : State) (uid st : Nat) (d : Bytes) :
    (complete s uid st d).mem = s.mem ∧ (complete s uid st d).pending = s.pending ∧ (complete s uid st d).model = s.model := by
  unfold complete
  dsimp only
  (repeat' split) <;> simp

@[simp] theorem running_keeps (s : State) (uid : Nat) :
    (running s uid).mem = s.mem ∧ (running s uid).pending = s.pending ∧ (running s uid).model = s.model := by
  exact ⟨rfl, rfl, rfl⟩

@[simp] theorem norLog_keeps (s : State) (e : LogEntry) :
    (norLog s e).mem = s.mem ∧ (norLog s e).pending = s.pending ∧ (norLog s e).model = s.model := by
  exact ⟨rfl, rfl, rfl⟩

@[simp] theorem drainLog_keeps (s : State)  :
    (drainLog s).mem = s.mem ∧ (drainLog s).pending = s.pending ∧ (drainLog s).model = s.model := by
  have h : what (drainLog s) = what s := foldl_keeps _ what (fun s x => by unfold what; (repeat' split) <;> simp) _ _
  simpa [what] using h

@[simp] theorem logEntry_keeps (s : State) (t d : Nat) (b : Bytes) :
    (logEntry s t d b).mem = s.mem ∧ (logEntry s t d b).pending = s.pending ∧ (logEntry s t d b).model = s.model := by
  unfold logEntry
  dsimp only
  (repeat' split) <;> simp

@[simp] theorem norMap_keeps (s : State)  :
    (norMap s).mem = s.mem ∧ (norMap s).pending = s.pending ∧ (norMap s).model = s.model := by
  unfold norMap
  dsimp only
  (repeat' split) <;> simp

@[simp] theorem mapSet_keeps (s : State) (e : MapEntry) :
    (mapSet s e).mem = s.mem ∧ (mapSet s e).pending = s.pending ∧ (mapSet s e).model = s.model := by
  unfold mapSet
  dsimp only
  (repeat' split) <;> simp

@[simp] theorem schedule_keeps (s : State) (e : MapEntry) :
    (schedule s e).mem = s.mem ∧ (schedule s e).pending = s.pending ∧ (schedule s e).model = s.model := by
  unfold schedule
  dsimp only
  (repeat' split) <;> simp

@[simp] theorem rateHit_keeps (s : State) (d k u b w l o : Nat) :
    (rateHit s d k u b w l o).mem = s.mem ∧ (rateHit s d k u b w l o).pending = s.pending ∧ (rateHit s d k u b w l o).model = s.model := by
  unfold rateHit
  dsimp only
  (repeat' split) <;> simp

@[simp] theorem tstoreCe_keeps (s : State) (k : Nat) :
    (tstoreCe s k).mem = s.mem ∧ (tstoreCe s k).pending = s.pending ∧ (tstoreCe s k).model = s.model := by
  simp [tstoreCe]

@[simp] theorem memCe_keeps (s : State) (a : Nat) :
    (memCe s a).mem = s.mem ∧ (memCe s a).pending = s.pending ∧ (memCe s a).model = s.model := by
  unfold memCe
  dsimp only
  (repeat' split) <;> simp

@[simp] theorem countErr_keeps (s : State) (a : Nat) (f : Errs → Errs) :
    (countErr s a f).mem = s.mem ∧ (countErr s a f).pending = s.pending ∧ (countErr s a f).model = s.model := by
  unfold countErr
  (repeat' split) <;> simp

@[simp] theorem countAcc_keeps (s : State) (a : Nat) :
    (countAcc s a).mem = s.mem ∧ (countAcc s a).pending = s.pending ∧ (countAcc s a).model = s.model := by
  unfold countAcc
  (repeat' split) <;> simp

@[simp] theorem State.setBad_keeps (s : State) (l : Nat) (b : Bool) :
    (s.setBad l b).mem = s.mem ∧ (s.setBad l b).pending = s.pending ∧ (s.setBad l b).model = s.model := by
  exact ⟨rfl, rfl, rfl⟩

@[simp] theorem markBad_keeps (s : State) (l : Nat) :
    (markBad s l).mem = s.mem ∧ (markBad s l).pending = s.pending ∧ (markBad s l).model = s.model := by
  simp [markBad]

@[simp] theorem flawLine_keeps (s : State) (c l : Nat) (f : Flaw) :
    (flawLine s c l f).mem = s.mem ∧ (flawLine s c l f).pending = s.pending ∧ (flawLine s c l f).model = s.model := by
  unfold flawLine
  dsimp only
  (repeat' split) <;> simp

@[simp] theorem meet_keeps (s : State) (c a n : Nat) :
    (meet s c a n).mem = s.mem ∧ (meet s c a n).pending = s.pending ∧ (meet s c a n).model = s.model := by
  have h : what (meet s c a n) = what s := by
    unfold meet
    split
    · rfl
    · exact foldl_keeps _ what (fun s x => by unfold what; simp) _ _
  simpa [what] using h

@[simp] theorem State.plant_keeps (s : State) (fl : Flaws) :
    (s.plant fl).mem = s.mem ∧ (s.plant fl).pending = s.pending ∧ (s.plant fl).model = s.model := by
  exact ⟨rfl, rfl, rfl⟩

@[simp] theorem wrPoison_keeps (s : State) (a n : Nat) (p : Bool) :
    (wrPoison s a n p).mem = s.mem ∧ (wrPoison s a n p).pending = s.pending ∧ (wrPoison s a n p).model = s.model := by
  have h : what (wrPoison s a n p) = what s := foldl_keeps _ what (fun s l => by
    unfold what; dsimp only; (repeat' split) <;> simp) _ _
  simpa [what] using h

@[simp] theorem countLink_keeps (s : State) (back : Bool) (x : Nat × Nat) :
    (countLink s back x).mem = s.mem ∧ (countLink s back x).pending = s.pending ∧ (countLink s back x).model = s.model := by
  unfold countLink
  dsimp only
  split <;> simp

@[simp] theorem countFlits_keeps (s : State) (c k a : Nat) :
    (countFlits s c k a).mem = s.mem ∧ (countFlits s c k a).pending = s.pending ∧ (countFlits s c k a).model = s.model := by
  have h : what (countFlits s c k a) = what s := by
    unfold countFlits
    dsimp only
    rw [foldl_keeps _ what (fun s x => by simp [what]), foldl_keeps _ what (fun s x => by simp [what])]
  simpa [what] using h

@[simp] theorem setDirty_keeps (s : State) (o g off : Nat) :
    (setDirty s o g off).mem = s.mem ∧ (setDirty s o g off).pending = s.pending ∧ (setDirty s o g off).model = s.model := by
  unfold setDirty
  (repeat' split) <;> simp

@[simp] theorem xlTouch_keeps (s : State) (d k c va : Nat) :
    ((xlTouch s d k c va).2).mem = s.mem ∧ ((xlTouch s d k c va).2).pending = s.pending ∧ ((xlTouch s d k c va).2).model = s.model := by
  unfold xlTouch
  (repeat' split) <;> simp

@[simp] theorem captureRefusal_keeps (s : State) (d k kind e lc va : Nat) :
    (captureRefusal s d k kind e lc va).mem = s.mem ∧ (captureRefusal s d k kind e lc va).pending = s.pending ∧
      (captureRefusal s d k kind e lc va).model = s.model := by
  unfold captureRefusal
  dsimp only
  split <;> simp

@[simp] theorem refuse_keeps (s : State) (k e va kind : Nat) :
    (refuse s k e va kind).mem = s.mem ∧ (refuse s k e va kind).pending = s.pending ∧ (refuse s k e va kind).model = s.model := by
  unfold refuse
  dsimp only
  (repeat' split) <;> simp

/-- A write changes memory where it exists and its die is not fenced, and there it stores exactly the bytes (R267, R484). -/
theorem wrPhys_mem (s : State) (a : Nat) (bs : Bytes) (p : Bool) :
    (wrPhys s a bs p).mem = if s.fenced (bits a 44 42) ∨ inDram a = false then s.mem else Mem.setBytes s.mem a bs := by
  unfold wrPhys
  (repeat' split) <;> simp_all

@[simp] theorem wrPhys_keeps (s : State) (a : Nat) (bs : Bytes) (p : Bool) :
    (wrPhys s a bs p).pending = s.pending ∧ (wrPhys s a bs p).model = s.model := by
  unfold wrPhys
  (repeat' split) <;> simp

/-- A write keeps the canonical form. -/
theorem wrPhys_wf (s : State) (a : Nat) (bs : Bytes) (p : Bool) (h : Mem.wf s.mem = true) : Mem.wf (wrPhys s a bs p).mem = true := by
  rw [wrPhys_mem]
  split
  · exact h
  · exact Mem.wf_setBytes _ _ _ h

/-- A write leaves every byte outside what it stores (R290). -/
theorem wrPhys_byte (s : State) (a : Nat) (bs : Bytes) (p : Bool) (b : Nat) (h : b < a ∨ a + bs.length ≤ b) :
    Mem.byte (wrPhys s a bs p).mem b = Mem.byte s.mem b := by
  rw [wrPhys_mem]
  split
  · rfl
  · rw [Mem.byte_setBytes]
    split
    · rw [List.getElem?_eq_none (by omega), Option.getD_none]
    · rfl

/-- The atomic add stores the sum modulo 2^64 where memory exists and its die is not fenced (R224). -/
theorem addPhys_mem (s : State) (a v : Nat) :
    (addPhys s a v).2.mem = if s.fenced (bits a 44 42) ∨ inDram a = false then s.mem
      else Mem.setBytes s.mem a (natLe 8 ((leNat (rdPhys s a 8).1 + v) % 2 ^ 64)) := by
  unfold addPhys
  dsimp only
  by_cases hf : s.fenced (bits a 44 42) = true
  · simp [hf, wrPhys_mem]
  · by_cases ht : inDram a = false
    · simp [hf, ht]
    · by_cases hb : s.badLine a = true <;> simp [hf, ht, hb]

@[simp] theorem addPhys_keeps (s : State) (a v : Nat) :
    (addPhys s a v).2.pending = s.pending ∧ (addPhys s a v).2.model = s.model := by
  unfold addPhys
  dsimp only
  by_cases hb : s.badLine a = true <;> (repeat' split) <;> simp

theorem addPhys_wf (s : State) (a v : Nat) (h : Mem.wf s.mem = true) : Mem.wf (addPhys s a v).2.mem = true := by
  rw [addPhys_mem]
  split
  · exact h
  · exact Mem.wf_setBytes _ _ _ h

/-- A read moves counters and poison, and no byte of memory. -/
@[simp] theorem rdVa_keeps (s : State) (kc ctx va n : Nat) (slot : Bool) :
    (rdVa s kc ctx va n slot).2.2.mem = s.mem ∧ (rdVa s kc ctx va n slot).2.2.pending = s.pending ∧
      (rdVa s kc ctx va n slot).2.2.model = s.model := by
  have each : ∀ (l : List (Nat × Nat)) (x : Bytes × List Nat × State),
      what (l.foldl (rdPiece kc ctx va slot) x).2.2 = what x.2.2 := by
    intro l
    induction l with
    | nil => exact fun _ => rfl
    | cons p l ih =>
      intro x
      rw [List.foldl_cons, ih]
      unfold rdPiece
      cases locate x.2.2 ctx p.1 .read slot <;> simp [what]
  simpa [what, rdVa] using each (pieces va n) ([], [], s)

/-- A write that is made where it was translated to, or waits there (R279). -/
@[simp] theorem putLoc_keeps (s : State) (l : Loc) (w : Owed) :
    (putLoc s l w).pending = s.pending ∧ (putLoc s l w).model = s.model := by
  cases l with
  | at_ pa o g => simp only [putLoc, setDirty_keeps]; cases w.put <;> dsimp only <;> split <;> simp
  | _ => simp [putLoc, dropFenced]

theorem putLoc_wf (s : State) (l : Loc) (w : Owed) (h : Mem.wf s.mem = true) : Mem.wf (putLoc s l w).mem = true := by
  cases l with
  | at_ pa o g =>
    have h1 : ∀ t : State, t.mem = s.mem → Mem.wf t.mem = true := fun t e => e ▸ h
    simp only [putLoc, setDirty_keeps]
    cases w.put <;> dsimp only
    · exact wrPhys_wf _ _ _ _ (h1 _ (by split <;> simp))
    · exact addPhys_wf _ _ _ (h1 _ (by split <;> simp))
    · exact wrPhys_wf _ _ _ _ (h1 _ (by split <;> simp))
  | _ => simpa [putLoc, dropFenced] using h

@[simp] theorem wrVa_keeps (s : State) (kc ctx va : Nat) (bs : Bytes) (bad : List Nat) (slot : Bool) :
    (wrVa s kc ctx va bs bad slot).pending = s.pending ∧ (wrVa s kc ctx va bs bad slot).model = s.model :=
  ⟨foldl_keeps _ (·.pending) (fun _ _ => (putLoc_keeps ..).1) _ _, foldl_keeps _ (·.model) (fun _ _ => (putLoc_keeps ..).2) _ _⟩

/-- A write of a context's range keeps the canonical form of memory. -/
theorem wrVa_wf (s : State) (kc ctx va : Nat) (bs : Bytes) (bad : List Nat) (slot : Bool) (h : Mem.wf s.mem = true) :
    Mem.wf (wrVa s kc ctx va bs bad slot).mem = true := by
  unfold wrVa
  generalize dealt (pieces va bs.length) bs = l
  induction l generalizing s with
  | nil => exact h
  | cons p l ih => exact ih _ (putLoc_wf _ _ _ h)

/-- An atomic add at an address of a context keeps the canonical form of memory (R224). -/
theorem addVa_wf (s : State) (kc ctx va v : Nat) (h : Mem.wf s.mem = true) : Mem.wf (addVa s kc ctx va v).2.mem = true :=
  putLoc_wf _ _ _ h

/-- The writes that waited are made in order and keep the canonical form of memory (R279). -/
theorem payOwed_wf (s : State) (h : Mem.wf s.mem = true) : Mem.wf (payOwed s).mem = true := by
  have each : ∀ (l : List Owed) (t : State), Mem.wf t.mem = true → Mem.wf (l.foldl (fun (s : State) w =>
      putLoc s (objAt s w.obj w.off (if w.put = .add then .atomic else .write)) w) t).mem = true := by
    intro l
    induction l with
    | nil => exact fun _ e => e
    | cons w l ih => exact fun t e => ih _ (putLoc_wf _ _ _ e)
  exact each s.owed { s with owed := [] } h

end Sys2Proof.Machine
end

