-- ==== Sys2Proof/Tests/Slice0.lean ====
section
/-! SUPPORT. Tests. The first group shows each check of WellFormed refusing an ill-formed command. Each witness_ theorem
shows a concrete state and operands that meet the hypotheses of one clause of a statement together; each test_ theorem runs
one command on a small state, and its expected value is taken from the rule it names. -/

set_option autoImplicit false
set_option Elab.async false

namespace Sys2Proof.Tests

open Sys2Proof Sys2Proof.Machine

/-! ### Well-formedness -/

theorem wf_core_in_range : (Instr.nop ⟨7, 67⟩).wf .krk8 = true ∧ (Instr.ccDispatch ⟨7, 67⟩).wf .krk8 = true := by decide
theorem wf_core_die : (Instr.ccDispatch ⟨2, 0⟩).wf .krk2 = false := by decide
theorem wf_core_phys : (Instr.ccDispatch ⟨0, 68⟩).wf .krk8 = false := by decide
theorem wf_pace_core : (Instr.paceIntervalEnd ⟨0, 68⟩ 0).wf .krk8 = false := by decide
theorem wf_rail_row : (Instr.railOutOfTolerance 0 7 0).wf .krk8 = false ∧ (Instr.railOutOfTolerance 0 6 0).wf .krk8 = true := by decide
theorem wf_rail_die : (Instr.railOutOfTolerance 4 0 0).wf .krk4 = false := by decide
theorem wf_sensor : (Instr.sensorRead 0 20 0 0).wf .krk8 = false ∧ (Instr.sensorRead 0 19 0 0).wf .krk8 = true := by decide
theorem wf_sensor_die : (Instr.sensorRead 8 0 0 0).wf .krk8 = false := by decide
theorem wf_monitor : (Instr.delayMonitorCheck 0 8 0).wf .krk8 = false ∧ (Instr.delayMonitorCheck 8 0 0).wf .krk8 = false := by decide
theorem wf_array : (Instr.coverCropBeat ⟨0, 0⟩ 4).wf .krk8 = false ∧ (Instr.oploadLanded ⟨0, 0⟩ 4 []).wf .krk8 = false := by decide
theorem wf_priority : (Instr.pfcReceived 0 8 0).wf .krk8 = false ∧ (Instr.pfcReceived 1 0 0).wf .krk2 = false := by decide

/-- An unprotected frame of a neighbour. -/
def arr0 : Arrival := ⟨0, 0, 0, false, false, 0⟩

/-- A packet whose every field is 0. -/
def roce : RocePkt := ⟨0, 0, false, false, false, none, 0, 0, 0, 0, 0, [], [], arr0⟩

theorem wf_roce_port : (Instr.roceInboundWrite 0 roce []).wf .krk2 = true ∧ (Instr.roceInboundWrite 1 roce []).wf .krk2 = false := by decide
theorem wf_roce_qpn : (Instr.roceInboundWrite 0 { roce with qpn := 2 ^ 24 } []).wf .krk2 = false := by decide
theorem wf_roce_psn : (Instr.roceInboundRead 0 { roce with psn := 2 ^ 24 } []).wf .krk2 = false := by decide
theorem wf_roce_prio : (Instr.roceInboundRead 0 { roce with tag := some 8 } []).wf .krk2 = false
    ∧ (Instr.roceInboundRead 0 { roce with dscp := 64 } []).wf .krk2 = false := by decide
theorem wf_register : (Instr.registerWrite (.healthHang 2) 0).wf .krk2 = false ∧ (Instr.registerWrite (.opeSkew ⟨1, 68⟩) 0).wf .krk2 = false
    ∧ (Instr.registerWrite (.portQos 1) 0).wf .krk2 = false ∧ (Instr.registerWrite (.cellarWdog 1 5) 0).wf .krk2 = false
    ∧ (Instr.registerWrite (.farErrors 1 16) 0).wf .krk2 = false ∧ (Instr.registerWrite (.nearErrors 0 8) 0).wf .krk2 = false
    ∧ (Instr.registerWrite (.partReset 16) 0).wf .krk2 = false := by decide
theorem wf_roce_key : (Instr.roceInboundFetchAdd 0 { roce with key := 2 ^ 32 } []).wf .krk2 = false := by decide
theorem wf_roce_va : (Instr.roceInboundFetchAdd 0 { roce with va := 2 ^ 64 } []).wf .krk2 = false := by decide
theorem wf_roce_mask : (Instr.roceInboundWrite 0 { roce with mask := List.replicate 65 true } []).wf .krk2 = false := by decide

/-- A collective packet whose every field is 0. -/
def cpkt : CollPkt := ⟨0, 0, false, false, false, 0, 0, 0, 0, 0, 0, 0, 0, 0, 0, 0, 0, 0, false, [], arr0⟩

theorem wf_coll_port : (Instr.collDataReceived 0 cpkt).wf .krk2 = true ∧ (Instr.collScaleReceived 1 cpkt).wf .krk2 = false := by decide
theorem wf_coll_member : (Instr.collDataReceived 0 { cpkt with member := 4096 }).wf .krk2 = false := by decide
theorem wf_coll_inc : (Instr.collDataReceived 0 { cpkt with inc := 2 ^ 16 }).wf .krk2 = false
    ∧ (Instr.collDataReceived 0 { cpkt with destInc := 2 ^ 16 }).wf .krk2 = false := by decide
theorem wf_coll_bucket : (Instr.collScaleReceived 0 { cpkt with bucket := 2 ^ 16 }).wf .krk2 = false := by decide
theorem wf_coll_epoch : (Instr.collScaleReceived 0 { cpkt with epoch := 2 ^ 16 }).wf .krk2 = false
    ∧ (Instr.collScaleReceived 0 { cpkt with hop := 2 ^ 16 }).wf .krk2 = false := by decide
theorem wf_coll_payload : (Instr.collDataReceived 0 { cpkt with payload := zeros 8201 }).wf .krk2 = false := by decide +kernel

theorem wf_datagram_port : (Instr.hostHello ⟨0, 0, []⟩).wf .krk2 = true ∧ (Instr.hostProof ⟨1, 0, []⟩).wf .krk2 = false := by decide
theorem wf_datagram_size : (Instr.attest ⟨0, 0, zeros 8953⟩).wf .krk2 = false := by decide +kernel

/-! ### States -/

/-- A die with its rails up. -/
def die0 : Die := { Die.init with railsOn := true, dramOn := true }

/-- The module running (R31 step 8): every die's rails up, PGOOD released, die 0 the boot die. -/
def up : State := { State.reset with
  power := { State.reset.power with
    applied := true, mv := 48000, standby := true, step := 8, resetN := true, pgood := true }
  dies := (List.range 8).map (fun d => (d, die0))
  fw := { Fw.init with elected := true } }

/-- The standby rails up, RESET_N low (R31 step 4). -/
def standby : State := { State.reset with
  power := { State.reset.power with applied := true, mv := 48000, standby := true, step := 4 }
  dies := (List.range 8).map (fun d => (d, Die.init)) }

/-- A change of die 0. -/
def onD (s : State) (f : Die → Die) : State := s.setDie 0 (f (s.die 0))

/-- An environment in which every part starts well. -/
def env0 : StartEnv := ⟨[], [0, 2], [0, 2], true, false, [], [], [], [], []⟩

/-! ### Power (chapters 01 and 02) -/

theorem witness_step_empty : State.reset.pending = [] := rfl
theorem witness_step_tick : up.pending = [] ∧ up.power.standby = true ∧ up.fw.update = none
    ∧ (∀ d, d < 8 → ∀ n, n < 5 → (cellarCore up d n).ends = none) ∧ up.power.logQ = [] := by decide
theorem witness_memory_step : up.memOk ∧ step up = .next (idleTick up) := ⟨rfl, rfl⟩
theorem witness_outcomes : exec (.v48MinReset 0) up = .next { up with power := { up.power with minSeen := 0xFFF } } := rfl

theorem witness_input_again : up.power.standby = true := rfl
theorem witness_input_above : State.reset.power.standby = false ∧ 38000 < 38001 := by decide
theorem witness_input_below : State.reset.power.standby = false ∧ 38000 ≤ 38000 := by decide

theorem witness_reset_falls : up.power.resetN = true ∧ up.power.standby = true := by decide
theorem witness_reset_held : let s := State.reset
    s.power.resetN = false ∧ s.power.scan = false ∧ s.power.tripLow = false ∧ mayStart s env0 = false := by decide
theorem witness_reset_rises : standby.power.resetN = false ∧ standby.power.scan = false ∧ standby.power.tripLow = false
    ∧ mayStart standby env0 = true ∧ env0.railFail = [] ∧ env0.norOk = true ∧ standby.nor.copy.entries = []
    ∧ env0.lanes = [] ∧ 0 ∉ env0.noRef ∧ 0 ∈ env0.cellarOk ∧ 0 ∈ env0.serdesOk := by decide

theorem witness_rail_fenced : let s := { up with power := { up.power with fenced := [3] } }
    3 < s.model.dies ∧ s.fenced 3 = true := by decide
theorem witness_rail : 7 < up.model.dies ∧ up.fenced 7 = false ∧ (up.die 7).railsOn = true ∧ (up.die 7).reports.length < 256 := by decide

theorem witness_sensor_cool : 0 < up.model.dies ∧ up.power.standby = true ∧ 7 < 8 ∧ sensorOk up 0 7 = true ∧ (460 : Int) ≤ 460 := by decide
theorem witness_sensor_trip : 0 < up.model.dies ∧ up.power.standby = true ∧ 0 < 8 ∧ sensorOk up 0 0 = true
    ∧ (460 : Int) < 461 ∧ up.power.tripLow = false := by decide

/-- Die 0 with a junction sensor at 100 °C, and no step in the last millisecond. -/
def hot : State := onD up (fun x => { x with
  sensors := (List.range 8).map (fun n => (n, 400)), lastThr := some 0, time := 25000, set := 20 })
/-- Every sensor below 95 °C for 10 ms, after steps of the throttle. -/
def cooled : State := onD up (fun x => { x with coolSince := some 0, time := 250000, thrA := 1, admitCap := 63 })

theorem witness_throttle_volt : 0 < hot.model.dies ∧ (∀ t, (hot.die 0).lastThr = some t → t + 25000 ≤ (hot.die 0).time)
    ∧ anyAt hot 0 100 = true ∧ (hot.die 0).vmin < (hot.die 0).set :=
  ⟨by decide, by intro t h; cases h; decide, by decide, by decide⟩
theorem witness_throttle_admit : let s := onD hot (fun x => { x with set := 10 })
    0 < s.model.dies ∧ (∀ t, (s.die 0).lastThr = some t → t + 25000 ≤ (s.die 0).time)
    ∧ anyAt s 0 100 = true ∧ (s.die 0).set ≤ (s.die 0).vmin :=
  ⟨by decide, by intro t h; cases h; decide, by decide, by decide⟩
theorem witness_throttle_back : 0 < cooled.model.dies ∧ (∀ t, (cooled.die 0).lastThr = some t → t + 25000 ≤ (cooled.die 0).time)
    ∧ anyAt cooled 0 100 = false ∧ allBelow cooled 0 95 = true
    ∧ (∃ c, (cooled.die 0).coolSince = some c ∧ c + 250000 ≤ (cooled.die 0).time) ∧ 0 < (cooled.die 0).thrA :=
  ⟨by decide, (by intro t h; cases h), by decide, by decide, ⟨0, by decide, by decide⟩, by decide⟩

theorem witness_hold_ends : let s := { up with power := { up.power with hold := true, mapDue := true, mapQ := [⟨1, 0, 0, 1, 3, 0, 0⟩] } }
    s.power.standby = true ∧ s.power.hold = true ∧ s.nor.ok = true ∧ s.power.spareQ = [] := by decide +kernel
theorem witness_guard_levels : up.power.standby = true ∧ up.power.throttle = false
    ∧ 41999 < 42000 ∧ 43000 < 43001 ∧ 40499 < 40500 ∧ 41500 < 41501 ∧ 62000 < 62001 ∧ 60999 < 61000 := by decide
theorem witness_guard_reset : up.power.standby = true ∧ 37999 < 38000 := by decide
theorem witness_guard_release : let s := { State.reset with power := { State.reset.power with applied := true, guardHeld := true } }
    s.power.applied = true ∧ s.power.guardHeld = true ∧ s.power.standby = false ∧ 40000 < 40001 := by decide

theorem witness_nor_retry : let s := onD { up with nor := { up.nor with ok := false } } (fun x => { x with time := 1500000000 })
    s.nor.ok = false ∧ s.fw.elected = true ∧ s.nor.lastTry + 1500000000 ≤ (s.die s.fw.bootDie).time := by decide
theorem witness_scan : standby.power.resetN = false ∧ standby.power.standby = true ∧ standby.power.tripLow = false
    ∧ standby.power.guardHeld = false ∧ standby.power.scan = false ∧ tooHot standby = false := by decide
theorem witness_tap : 7 < standby.model.dies ∧ standby.power.standby = true := by decide
theorem witness_chain : let s := onD standby (fun x => { x with tap := { x.tap with ir := .extest } })
    s.power.standby = true ∧ (s.die 0).tap.boundary = true ∧ (none : Option Nat) ≠ some 0 ∧ 0 < s.model.dies := by decide

/-- R48: the code that the bits of the register spell. -/
theorem test_idcode : bitsValue idcode = 0x2A7C19E7 ∧ idcode.length = 32 := by decide
/-- R71: 42.0 V is not below 42 V. -/
theorem test_hold_edge : execSupplyHoldEnter 42000 up = .next up := rfl

/-! ### Pace and voltage (chapter 02) -/

/-- Core 0 of die 0. -/
def c0 : CoreId := ⟨0, 0⟩
/-- A change of core 0. -/
def onK (s : State) (f : Core → Core) : State := s.onC 0 f
/-- The arrays of core 0 at a place of their cover window (R66). -/
def covered (st : CoverSt) (n : Nat) : State := onK up (fun x => { x with hw := { x.hw with cover := List.replicate 4 (st, n) } })

theorem witness_core : fittedCore up ⟨7, 67⟩ ∧ (up.die 7).railsOn = true := ⟨⟨by decide, by decide⟩, by decide⟩
/-- Die 0 at the end of a reference interval: its VCORE came up at 100, and core 0's last interval ended at 5,000. -/
def paced : State := onK (onD up (fun x => { x with railsAt := 100, time := 9096 })) (fun x => { x with hw := { x.hw with paceAt := 5000 } })
theorem witness_pace : fittedCore paced c0 ∧ (paced.die 0).railsOn = true
    ∧ Nat.max (paced.die 0).railsAt (paced.core (ck c0)).hw.paceAt + 4096 ≤ (paced.die 0).time := ⟨⟨by decide, by decide⟩, by decide, by decide⟩
/-- R57, R75: one period short of 4,096 the interval has not ended. -/
theorem test_pace_early : execPaceIntervalEnd c0 9 (onD paced (fun x => { x with time := 9095 })) = .next (onD paced (fun x => { x with time := 9095 })) := rfl
theorem witness_cover_beat : fittedCore (covered .cover 2499) c0 ∧ ((covered .cover 2499).core (ck c0)).hw.cover[3]? = some (.cover, 2499)
    ∧ 2499 < coverMax ((covered .cover 2499).core (ck c0)) := ⟨⟨by decide, by decide⟩, by decide, by decide⟩
theorem witness_cover_end : fittedCore (covered .cover 2500) c0 ∧ ((covered .cover 2500).core (ck c0)).hw.cover[0]? = some (.cover, 2500)
    ∧ coverMax ((covered .cover 2500).core (ck c0)) ≤ 2500 := ⟨⟨by decide, by decide⟩, by decide, by decide⟩
theorem witness_ramp_end : fittedCore (covered .ramp 9) c0 ∧ ((covered .ramp 9).core (ck c0)).hw.cover[1]? = some (.ramp, 9) :=
  ⟨⟨by decide, by decide⟩, by decide⟩

theorem witness_vcore : 0 < up.model.dies ∧ (up.die 0).thrV = 0 := by decide
theorem witness_ramp_down : let s := onD up (fun x => { x with est := 100, meas := 90 })
    Nat.max (s.die 0).est (s.die 0).meas ≤ Nat.max 60 60 + Nat.min 50 (s.die 0).downRate * 1
    ∧ Nat.max 60 60 ≤ Nat.max (s.die 0).est (s.die 0).meas ∧ moved (s.die 0).meas 60 ≤ 50 * 1 ∧ Nat.max 60 60 ≤ 700 := by decide
theorem witness_ramp_up : let s := onD up (fun x => { x with adm := 10 })
    Nat.max (s.die 0).est (s.die 0).meas ≤ Nat.max 40 40
    ∧ Nat.max 40 40 ≤ Nat.max (s.die 0).est (s.die 0).meas + Nat.min 50 (s.die 0).upRate * 1
    ∧ moved (s.die 0).meas 40 ≤ 50 * 1 ∧ Nat.max 40 40 ≤ 700 ∧ overCap s 0 (Nat.max 40 40) = false := by decide
theorem witness_ramp_broken : Nat.max (up.die 0).est (up.die 0).meas + 50 * 1 < Nat.max 51 0
    ∧ 50 * 1 < moved ((onD up (fun x => { x with est := 60, meas := 100 })).die 0).meas 49 := by decide

/-- Cluster 0 of die 0 at a tap, with comparisons above 25 %. -/
def tapped (tap above : Nat) : State := up.setCluster 0 0 { Cluster.init with tap := tap, above := above }
theorem witness_monitor_up : 0 < 8 ∧ ((tapped 6 0).cluster 0 0).halted = false ∧ 9 < 10 ∧ ((tapped 6 0).cluster 0 0).tap < 7 := by decide
theorem witness_monitor_down : ((tapped 1 255).cluster 0 0).halted = false ∧ 25 < 26 := by decide
theorem witness_monitor_keep : ((tapped 1 255).cluster 0 0).halted = false ∧ 10 ≤ 25 ∧ 25 ≤ 25 := by decide
theorem witness_monitor_halt : 0 < up.model.dies ∧ ((tapped 7 0).cluster 0 0).halted = false ∧ 9 < 10
    ∧ 7 ≤ ((tapped 7 0).cluster 0 0).tap ∧ ((tapped 7 0).die 0).reports.length < 256 := by decide
/-- R56: at the 256th comparison above 25 % the tap falls from 1 to 0. -/
theorem test_tap_falls : execDelayMonitorCheck 0 0 26 (tapped 1 255) = .next ((tapped 1 255).setCluster 0 0 { Cluster.init with tap := 0, above := 0 }) := rfl
/-- R66: the window's last beat is the 2,500th. -/
theorem test_cover_limit : execCoverCropBeat c0 0 (covered .cover 2500) = .next (covered .cover 2500) := rfl

/-! ### A live core -/

/-- A command word: opcode, engine, and fields by their lowest bit. -/
def word (op e : Nat) (fs : List (Nat × Nat)) : CmdWord :=
  BitVec.ofNat 128 (op * 2 ^ 120 + e * 2 ^ 118 + (fs.map (fun p => p.1 * 2 ^ p.2)).sum)

/-- Object 0 of die 0: two NEAR granules in near frames 0 and 1. -/
def obj0 : Obj := ⟨2, 0, 0, 1, 0, 0, 1, [⟨.near, 0, 0, 0⟩, ⟨.near, 0, 1, 1⟩], [], none, 0xFFFF, [], [], [], [], 0, true⟩

/-- Context 0 resident on partition 0, cluster 0 of die 0; its window shows object 0 from address 0. -/
def live : State := { up with
  cores := [(0, { Core.init with ctx := some 0 })]
  parts := [(0, { Part.init with resident := some 0, phys := List.range 8 })]
  ctxs := [(0, { Ctx.init with st := .resident, windows := [⟨0, 2, 0, 0, true, true, true⟩] })]
  objs := [(0, obj0)] }

/-- Die 0 with its cellar cores running CC-M0 to CC-M3 (R425). -/
def staffed (s : State) : State := onD s (fun x => { x with
  cellar := (List.range 4).map (fun i => (i, { CellarCore.init with st := 1, role := i })) })

theorem test_live : live.liveOn 0 = some 0 := by decide
theorem test_translate : locate live 0 0x10008 .write false = .at_ 0x10008 0 1 := by decide

/-- Core 0 with a change of its CC. -/
def onCc (s : State) (f : CC → CC) : State := s.onCC 0 f
/-- The CC inside a body of one word, run twice. -/
def inBody (w : CmdWord) : State := onCc live (fun x => { x with buf := [w], bufIdx := 1, frames := [⟨0, 1, 0, 0, 2, 0⟩] })
/-- The CC with words of its ring at address 0x1000 and none consumed. -/
def inRing (ws : List CmdWord) : State :=
  let s := { live with mem := Mem.setBytes [] 0x1000 (ws.flatMap (fun w => natLe 16 w.toNat)) }
  onCc s (fun x => { x with base := 0x1000, producer := ws.length })
/-- The state in which the next word stands. -/
def atWord (s : State) : State := match nextWord s 0 with | .word _ _ t => t | _ => s
/-- The state in which a span of words stands, and the words. -/
def atSpan (s : State) (n : Nat) : State × List CmdWord :=
  match spanWords s 0 n with | (.word _ _ t, ws) => (t, ws) | (_, ws) => (s, ws)

/-- An entry of a queue, with its state. -/
def entry (w : CmdWord) (st : QSt) : QEntry := ⟨w, 5, 0, st⟩
/-- Core 0 with one command on an engine's queue, and a change of that engine. -/
def queue (s : State) (e : Engine) (w : CmdWord) (st : QSt) (f : Eng → Eng) : State :=
  s.onEng 0 e (fun x => f { x with q := [entry w st], nextSeq := 1 })
/-- Core 0 with counters of its context cached. -/
def ctrs (s : State) (l : List (Nat × Nat)) : State :=
  s.onHw 0 (fun h => { h with ctrs := l.map (fun p => ⟨0, 0, p.1, p.2⟩) })
/-- Core 0 with a descriptor cached under handle 1. -/
def descs (s : State) (d : Desc) : State := s.onHw 0 (fun h => { h with descs := put h.descs 1 d })
/-- A word descriptor at an address of object 0. -/
def dWord (va : Nat) : Desc := ⟨va, 1, 1, 1, 1, 0, 0, 0, 0, true, .word, false, false, false, 0, 0, none, 0, none, 0, 0⟩

/-- A tensor descriptor of a plain format over object 0, with rows of 128 elements. -/
def dTens (fmt cols rows : Nat) : Desc := ⟨0, cols, rows, 1, 1, 256, 0, 0, fmt, true, .tensor, false, false, false, 0, 0, none, 0, none, 0, 0⟩
/-- A VALID slot of a format and shape, with tag 9. -/
def valid (fmt rows cols : Nat) : Slot := ⟨.valid, 9, fmt, rows, cols, false, false, 0, 0, .made⟩
/-- A ring of three slots of n lines each from a line, bound to a descriptor. -/
def ring (line n prod cons : Nat) (d : Desc) (first : Slot) : Ring :=
  { Ring.empty with geom := ⟨true, line, n, 3, prod, cons, 0, 0⟩, slots := [first, .empty, .empty], tail := 1, bound := some ⟨1, d, 0⟩ }
/-- The same, with every slot FREE. -/
def freeRing (line n prod cons : Nat) (d : Desc) : Ring := { ring line n prod cons d .empty with tail := 0 }
/-- Core 0 with a ring. -/
def withRing (s : State) (r : Nat) (x : Ring) : State := s.onRing 0 r (fun _ => x)

/-- Bytes with values put in: offset, size, value. -/
def pack (n : Nat) (l : List (Nat × Nat × Nat)) : Bytes := l.foldl (fun (b : Bytes) p => patch b p.1 (natLe p.2.1 p.2.2)) (zeros n)
/-- A request taken, of session 1. -/
def req (code : Nat) (fields : Bytes) : Taken := ⟨5, 1, code, 77, fields, false⟩
/-- A state with that request the only one taken, and the cellar of die 0 running. -/
def asking (s : State) (r : Taken) : State := { staffed s with taken := [r] }
/-- A queue pair of context 0 on port 0, under number 3 and handle 2, with PSN 7 next both ways. -/
def qp0 : Qp :=
  ⟨0, .ctx 0, 2, 0x0A000002, 9, 0x0A000001, 7, 7, 4096, false, 17, 7, 7, 7, 7, false, 32768, none, none, none, [], [], false, false, true⟩
/-- Port 0 up, with that queue pair, and context 0 holding it. -/
def paired (s : State) : State :=
  let s1 := s.setPort 0 { Port.init with up := true, rate := 4, v4 := some (0x0A000001, 24, 0), qps := [(3, qp0)], neigh := [(0x0A000002, 0)] }
  s1.setCtx 0 { s1.ctx 0 with qps := [(2, (0, 3))] }
/-- A collective of two members in port 0, index 1, handle 4, with one bucket, number 6. -/
def bucket0 : Bucket := ⟨6, 0, 0, false, 64, 0x2000, 0x4000, 0x8000, 1, 0, 0, 0, false, false, false, false, [], [], [], ⟨0, []⟩, none, 0⟩
def coll0 : Coll := ⟨0, 4, .open_, 11, 2, 0, 1, 8, [⟨0x0A000001, 47970, 1, false, []⟩, ⟨0x0A000002, 47970, 2, false, []⟩],
  [bucket0], 0, 0, [], [], [], 32768, none, none⟩
def gathered (s : State) (c : Coll) : State :=
  let s1 := s.setPort 0 { Port.init with
    up := true, rate := 4, v4 := some (0x0A000001, 24, 0), colls := [(1, c)], redOn := true, udp := 47970
    neigh := [(0x0A000002, 0), (0x0A000003, 0)] }
  s1.setCtx 0 { s1.ctx 0 with colls := [(4, (0, 1))] }

/-- Bytes are what nth reads of them. -/
theorem spelled_eq (d : Bytes) : (List.range d.length).map (fun i => nth 0 d i) = d := by
  refine List.ext_getElem? (fun i => ?_)
  rcases Nat.lt_or_ge i d.length with h | h <;> simp [nth, h]
theorem fit_length (n : Nat) (d : Bytes) : (fit n d).length = n := by simp only [fit, List.length_take, List.length_append, List.length_replicate]; omega

/-! ### Command core (chapter 06) -/

def wNop : CmdWord := word 0 0 []
def wSetlc : CmdWord := word 2 0 [(15, 108), (0xFFFFFFFF, 76)]
def wAddlc : CmdWord := word 3 0 [(1, 108), (7, 76)]
def wCmpset : CmdWord := word 4 0 [(3, 109), (2, 105), (1, 102), (9, 70)]
def wMarkStep : CmdWord := word 6 0 [(1, 110), (77, 78)]
def wMarkKeep : CmdWord := word 6 0 [(2, 110), (78, 78)]
def wDsync : CmdWord := word 7 0 []
/-- LOOP of two words, three times, with counter 2. -/
def wLoop : CmdWord := word 1 0 [(2, 108), (3, 76), (2, 68)]
/-- The same with COUNT 0. -/
def wLoop0 : CmdWord := word 1 0 [(2, 108), (2, 68)]
/-- SKIP of one word on comparator 0, NEG as given. Comparator 0 at rest compares counter 0 with 0, which holds. -/
def wSkip (neg : Nat) : CmdWord := word 5 0 [(neg, 108), (1, 100)]
/-- A VPAD, for the VE. -/
def wVpad : CmdWord := word 0x80 2 [(4, 68)]
/-- No row has this opcode. -/
def wBad : CmdWord := word 0x3F 0 []

/-- A word that the CC finds next, executes, and takes for itself. -/
def findsCc (s : State) (w : CmdWord) (idx op : Nat) : Prop :=
  fittedCore s c0 ∧ ccFinds s (ck c0) w idx (atWord s) ∧ engineOf w = 0 ∧ ((atWord s).core (ck c0)).cx.cc.takes w = true ∧ opcode w = op

theorem witness_cc_nop : findsCc (inBody wNop) wNop 1 0 := by unfold findsCc fittedCore ccFinds; decide +kernel
theorem witness_cc_setlc : findsCc (inRing [wSetlc]) wSetlc 0 2 := by unfold findsCc fittedCore ccFinds; decide +kernel
theorem witness_cc_addlc : findsCc (inBody wAddlc) wAddlc 1 3 := by unfold findsCc fittedCore ccFinds; decide +kernel
theorem witness_cc_cmpset : findsCc (inBody wCmpset) wCmpset 1 4 := by unfold findsCc fittedCore ccFinds; decide +kernel
theorem witness_cc_step : findsCc (inBody wMarkStep) wMarkStep 1 6 ∧ wf wMarkStep 111 110 = 1 := by
  unfold findsCc fittedCore ccFinds; decide +kernel
theorem witness_cc_keep : findsCc (inBody wMarkKeep) wMarkKeep 1 6 ∧ wf wMarkKeep 111 110 = 2 := by
  unfold findsCc fittedCore ccFinds; decide +kernel
theorem witness_cc_dsync : findsCc (inBody wDsync) wDsync 1 7 ∧ ((atWord (inBody wDsync)).ctx 0).ringVa = 0 := by
  unfold findsCc fittedCore ccFinds; decide +kernel

/-- What a LOOP or a SKIP also finds: its span, with the CC not stopped and its frames as they were. -/
def findsSpan (s : State) (w : CmdWord) (idx op : Nat) : Prop :=
  findsCc s w idx op ∧ spanWords (atWord s) (ck c0) (spanOf w) = (.word 0 0 (atSpan (atWord s) (spanOf w)).1, (atSpan (atWord s) (spanOf w)).2)
    ∧ ((atSpan (atWord s) (spanOf w)).1.core (ck c0)).cx.cc.stopped = false
    ∧ ((atSpan (atWord s) (spanOf w)).1.core (ck c0)).cx.cc.frames = ((atWord s).core (ck c0)).cx.cc.frames

def sLoop : State := inRing [wLoop, wNop, wSetlc]
def sLoop0 : State := inRing [wLoop0, wNop, wSetlc]
/-- An inner LOOP as the first of three words of a body. -/
def sInner : State := onCc live (fun x => { x with buf := [wLoop, wNop, wSetlc], bufIdx := 1, frames := [⟨0, 3, 0, 0, 2, 0⟩] })
def sSkip (neg : Nat) : State := inRing [wSkip neg, wSetlc]

theorem witness_loop : findsSpan sLoop wLoop 0 1 ∧ wf wLoop 107 76 ≠ 0 ∧ ((atWord sLoop).core 0).cx.cc.frames = [] := by
  unfold findsSpan findsCc fittedCore ccFinds; decide +kernel
theorem witness_loop_inner : findsSpan sInner wLoop 1 1 ∧ wf wLoop 107 76 ≠ 0
    ∧ ((atWord sInner).core 0).cx.cc.frames = ⟨0, 3, 0, 0, 2, 0⟩ :: [] ∧ 1 + spanOf wLoop ≤ 3 - 0 := by
  unfold findsSpan findsCc fittedCore ccFinds; decide +kernel
theorem witness_loop_zero : findsSpan sLoop0 wLoop0 0 1 ∧ wf wLoop0 107 76 = 0 ∧ ((atWord sLoop0).core 0).cx.cc.frames = []
    ∧ checkSpan 1 [some (spanOf wLoop0)] 0 (atSpan (atWord sLoop0) (spanOf wLoop0)).2 = none := by
  unfold findsSpan findsCc fittedCore ccFinds; decide +kernel
theorem witness_skip_taken : findsSpan (sSkip 0) (wSkip 0) 0 5 ∧ ((atWord (sSkip 0)).core 0).cx.cc.frames = []
    ∧ ((atWord (sSkip 0)).core 0).cx.cc.cmp (wf (wSkip 0) 111 109) ≠ bit (wSkip 0).toNat 108
    ∧ checkSpan 0 [none] 0 (atSpan (atWord (sSkip 0)) (spanOf (wSkip 0))).2 = none := by
  unfold findsSpan findsCc fittedCore ccFinds; decide +kernel
theorem witness_skip_not : findsSpan (sSkip 1) (wSkip 1) 0 5 ∧ ((atWord (sSkip 1)).core 0).cx.cc.frames = []
    ∧ ((atWord (sSkip 1)).core 0).cx.cc.cmp (wf (wSkip 1) 111 109) = bit (wSkip 1).toNat 108 := by
  unfold findsSpan findsCc fittedCore ccFinds; decide +kernel

/-- A predicated word of comparator 0 with NEG, which does not execute. -/
def wVpadOff : CmdWord := word 0x80 2 [(1, 117), (1, 113)]
/-- The CC in a body, the VE's queue as full as given. -/
def queued (n : Nat) : State := (inBody wVpad).onEng 0 .ve (fun x => { x with q := List.replicate n ⟨wVpad, 0, 0, .waiting⟩ })

theorem witness_dispatch_enters : fittedCore (queued 63) c0 ∧ ccFinds (queued 63) 0 wVpad 1 (atWord (queued 63))
    ∧ ((atWord (queued 63)).core 0).cx.cc.takes wVpad = true ∧ eNum .ve = engineOf wVpad
    ∧ (((atWord (queued 63)).core 0).eng .ve).q.length < 64 := by
  unfold fittedCore ccFinds; decide +kernel
theorem witness_dispatch_stalls : ccFinds (queued 64) 0 wVpad 1 (atWord (queued 64))
    ∧ ((atWord (queued 64)).core 0).cx.cc.takes wVpad = true ∧ 64 ≤ (((atWord (queued 64)).core 0).eng .ve).q.length := by
  unfold ccFinds; decide +kernel
theorem witness_dispatch_passes : ccFinds (inBody wVpadOff) 0 wVpadOff 1 (atWord (inBody wVpadOff))
    ∧ ((atWord (inBody wVpadOff)).core 0).cx.cc.takes wVpadOff = false ∧ opcode wVpadOff ≠ 1 ∧ opcode wVpadOff ≠ 5 := by
  unfold ccFinds; decide +kernel
theorem witness_dispatch_stops : (live.liveOn 0).isSome = true ∧ ((inBody wBad).core 0).cx.cc.stopped = false
    ∧ ((inBody wBad).core 0).cx.cc.quiesced = false ∧ ((inBody wBad).core 0).cx.cc.boundary = false
    ∧ nextWord (writeBack (inBody wBad) 0) 0 = .word wBad 1 (atWord (inBody wBad)) ∧ checkWord wBad ≠ 0
    ∧ ((atWord (inBody wBad)).core 0).hw.regs.stop.valid = false := by decide +kernel

/-- An idle CC whose header at address 0 gives PRODUCER 3. -/
def sPoll : State := onCc { live with mem := [(0x10, 3)] } (fun x => { x with base := 0x1000 })
/-- The same, CONSUMER written back, and what the CC's read of its header gives. -/
def polled : State := writeBack sPoll 0
def pollRead : Bytes × State := match ctlRead polled 0 .cc 0 64 0 0 with | .ok b s => (b, s) | _ => ([], polled)
theorem witness_poll : (sPoll.liveOn 0).isSome = true ∧ (sPoll.core 0).cx.cc.stopped = false ∧ (sPoll.core 0).cx.cc.quiesced = false
    ∧ (sPoll.core 0).ccIdle = true
    ∧ ctlRead polled 0 .cc (polled.core 0).cx.cc.hdr 64 (polled.core 0).cx.cc.consumer (polled.core 0).cx.cc.consumer = .ok pollRead.1 pollRead.2
    ∧ (polled.core 0).cx.cc.producer ≤ field pollRead.1 0x10 8
    ∧ field pollRead.1 0x10 8 ≤ (polled.core 0).cx.cc.consumer + 2 ^ (polled.core 0).cx.cc.size := by decide +kernel
/-- R170: a CC that has become idle 5 words after CONSUMER was last written writes it before it reads its header. -/
theorem test_idle_writes : field (Mem.bytes (writeBack (onCc sPoll (fun x => { x with consumer := 5, producer := 5 })) 0).mem 0x18 8) 0 8 = 5 := by decide +kernel

/-- R188: comparator 0 with OP 2 holds where the counter is below IMM. -/
theorem test_comparator : (⟨1, 2, 5⟩ : Cmp).eval [0, 4] = true ∧ (⟨1, 2, 4⟩ : Cmp).eval [0, 4] = false := by decide
/-- R186: after the last word of the last iteration the counter holds COUNT. -/
theorem test_loop_ends : settleFrames [⟨0, 1, 1, 2, 3, 5⟩] (List.replicate 16 0) = ([], (List.replicate 16 0).modify 5 (fun _ => 3)) := by decide
/-- R174: an opcode of no row is cause 1; MARK with KIND 0 is cause 2. -/
theorem test_causes : checkWord wBad = 1 ∧ checkWord (word 6 0 []) = 2 := by decide

/-! ### Synchronisation (chapter 07) -/

/-- SIGNAL of counter 1023 by 2^32 − 1. -/
def wSignal : CmdWord := word 0x10 2 [(1023, 102), (0xFFFFFFFF, 70)]
/-- WAIT for counter 3 to reach 10, with TIMEOUT 4. -/
def wWait : CmdWord := word 0x12 2 [(3, 102), (10, 38), (4, 6)]
def wWaitmem : CmdWord := word 0x13 3 [(1, 100), (10, 36)]
def wMadd : CmdWord := word 0x14 2 [(1, 100), (5, 36)]
def wBarrier : CmdWord := word 0x15 2 [(15, 108)]
def wFence : CmdWord := word 0x11 2 []

def sSignal : State := ctrs (queue live .ve wSignal .waiting id) [(1023, 2 ^ 64 - 2)]
theorem witness_signal : fittedCore sSignal c0 ∧ sSignal.head 0 .ve 0x10 = some (0, entry wSignal .waiting)
    ∧ ((sSignal.core 0).eng .ve).uncovered = false ∧ (sSignal.core 0).ctr (wf wSignal 111 102) = some ⟨0, 0, 1023, 2 ^ 64 - 2⟩ := by
  unfold fittedCore; decide +kernel
def sMiss : State := queue live .ve wSignal .waiting id
theorem witness_signal_miss : sMiss.head 0 .ve 0x10 = some (0, entry wSignal .waiting) ∧ ((sMiss.core 0).eng .ve).uncovered = false
    ∧ (sMiss.core 0).ctr (wf wSignal 111 102) = none ∧ ((sMiss.core 0).eng .ve).filling ≠ some (wf wSignal 111 102) := by decide +kernel
def sUncovered : State := queue live .ve wSignal .waiting (fun x => { x with uncovered := true })
theorem witness_signal_refused : sUncovered.head 0 .ve 0x10 = some (0, entry wSignal .waiting)
    ∧ ((sUncovered.core 0).eng .ve).uncovered = true ∧ (sUncovered.core 0).hw.regs.unfenced.valid = false := by decide +kernel
/-- The queue waits for counter 2, whose entry in the table at 0x4000 holds 9. -/
def sFill : State :=
  let s := queue { live with mem := [(0x4010, 9)] } .ve wSignal .waiting (fun x => { x with filling := some 2 })
  s.setCtx 0 { s.ctx 0 with counters := 0x4000 }
def fillRead : Bytes × State :=
  match ctlRead (sFill.onEng 0 .ve (fun x => { x with filling := none })) 0 .ve 0x4010 8 2 5 with | .ok b s => (b, s) | _ => ([], sFill)
theorem witness_fill : sFill.liveOn 0 = some 0 ∧ ((sFill.core 0).eng .ve).filling = some 2 ∧ (sFill.core 0).ctr 2 = none
    ∧ (sFill.core 0).hw.ctrs.length < 256
    ∧ ctlRead (sFill.onEng 0 .ve (fun x => { x with filling := none })) 0 .ve ((sFill.ctx 0).counters + 8192 * (sFill.core 0).lcore + 8 * 2) 8 2
        ((((sFill.core 0).eng .ve).next.map QEntry.idx).getD 0) = .ok fillRead.1 fillRead.2 ∧ leNat fillRead.1 = 9 := by decide +kernel

def sFence : State := queue live .ve wFence .waiting (fun x => { x with uncovered := true })
/-- A FENCE behind a write that has begun. -/
def sFence2 (st : QSt) : State := live.onEng 0 .ve (fun x => { x with
  q := [⟨word 0x81 2 [], 4, 0, .begun⟩, ⟨wFence, 5, 1, st⟩], nextSeq := 2 })
theorem witness_fence : fittedCore sFence c0 ∧ sFence.head 0 .ve 0x11 = some (0, entry wFence .waiting)
    ∧ (((begin_ sFence 0 .ve (entry wFence .waiting)).core 0).eng .ve).covered 0 = true := by unfold fittedCore; decide +kernel
theorem witness_fence_waits : (sFence2 .waiting).head 0 .ve 0x11 = some (0, ⟨wFence, 5, 1, .waiting⟩)
    ∧ (((begin_ (sFence2 .waiting) 0 .ve ⟨wFence, 5, 1, .waiting⟩).core 0).eng .ve).covered 1 = false := by decide +kernel
theorem witness_fence_begun : (sFence2 .begun).head 0 .ve 0x11 = none ∧ (sFence2 .begun).liveOn 0 = some 0
    ∧ (((sFence2 .begun).core 0).eng .ve).stopped = false
    ∧ (((sFence2 .begun).core 0).eng .ve).q.find? (fun m => m.st == .begun && opcode m.word == 0x11) = some ⟨wFence, 5, 1, .begun⟩
    ∧ (((sFence2 .begun).core 0).eng .ve).covered 1 = false := by decide +kernel
def sFence3 : State := queue live .ve wFence .begun id
theorem witness_fence_ends : sFence3.head 0 .ve 0x11 = none ∧ sFence3.liveOn 0 = some 0 ∧ ((sFence3.core 0).eng .ve).stopped = false
    ∧ ((sFence3.core 0).eng .ve).q.find? (fun m => m.st == .begun && opcode m.word == 0x11) = some (entry wFence .begun)
    ∧ ((sFence3.core 0).eng .ve).covered 0 = true ∧ Engine.ve ≠ .cc := by decide +kernel

def sWait (v : Nat) : State := ctrs (queue live .ve wWait .waiting id) [(3, v)]
theorem witness_wait_there : (sWait 10).head 0 .ve 0x12 = some (0, entry wWait .waiting)
    ∧ ((sWait 10).core 0).ctr (wf wWait 111 102) = some ⟨0, 0, 3, 10⟩ ∧ wf wWait 101 38 ≤ 10 := by decide +kernel
theorem witness_wait_stands : (sWait 9).head 0 .ve 0x12 = some (0, entry wWait .waiting)
    ∧ ((sWait 9).core 0).ctr (wf wWait 111 102) = some ⟨0, 0, 3, 9⟩ ∧ 9 < wf wWait 101 38 := by decide +kernel
def sWaitmem : State := descs (queue live .te wWaitmem .waiting id) (dWord 0x100)
theorem witness_waitmem : sWaitmem.head 0 .te 0x13 = some (0, entry wWaitmem .waiting) ∧ (sWaitmem.core 0).mayRead .te = true
    ∧ readDesc sWaitmem 0 .te (wf wWaitmem 111 100) .word (entry wWaitmem .waiting) = .ok (dWord 0x100) sWaitmem := by decide +kernel

/-- A wait of the VE of core 0. -/
def waiting (s : State) (w : Wait) : State := queue s .ve wWait .begun (fun x => { x with wait := some w })
def wt (kind : WKind) (polls next : Nat) (fl : Bool) : Wait := ⟨kind, 5, 3, 10, 4, polls, 0, 1, next, 0, fl⟩
theorem witness_poll_early : let s := waiting live (wt .counter 0 2 false)
    fittedCore s c0 ∧ s.liveOn 0 = some 0 ∧ ((s.core 0).eng .ve).wait = some (wt .counter 0 2 false)
    ∧ (wt .counter 0 2 false).polls < 4 ∧ hold 32 0 1 < 2 := by unfold fittedCore; decide +kernel
theorem witness_poll_barrier : ((waiting live (wt .barrier 3 1 false)).core 0).cx.ve.wait = some (wt .barrier 3 1 false) ∧ 3 < 4 := by decide +kernel
theorem witness_poll_flight : let s := waiting live (wt .mem 0 1 true)
    s.liveOn 0 = some 0 ∧ ((s.core 0).eng .ve).wait = some (wt .mem 0 1 true) := by decide +kernel
theorem witness_poll_counter : let s := ctrs (waiting live (wt .counter 0 1 false)) [(3, 10)]
    s.liveOn 0 = some 0 ∧ ((s.core 0).eng .ve).wait = some (wt .counter 0 1 false) ∧ 1 ≤ hold 32 0 1
    ∧ (s.core 0).ctr 3 = some ⟨0, 0, 3, 10⟩ ∧ (10 : Nat) ≤ 10 := by decide +kernel
theorem witness_poll_below : let s := ctrs (waiting live (wt .counter 3 1 false)) [(3, 9)]
    s.liveOn 0 = some 0 ∧ ((s.core 0).eng .ve).wait = some (wt .counter 3 1 false) ∧ 1 ≤ hold 32 3 1
    ∧ (s.core 0).ctr 3 = some ⟨0, 0, 3, 9⟩ ∧ (9 : Nat) < 10 := by decide +kernel
theorem witness_poll_mem : let s := waiting live (wt .mem 0 1 false)
    s.liveOn 0 = some 0 ∧ ((s.core 0).eng .ve).wait = some (wt .mem 0 1 false) ∧ 1 ≤ hold 32 0 1 ∧ (s.core 0).mayRead .ve = true := by decide +kernel
/-- A memory wait on address 8 with its read in flight, and the word there. -/
def sRead (v : Byte) : State := waiting { live with mem := [(8, v)] } { wt .mem 0 1 true with obj := 8 }
def readGives (s : State) : Nat × State := match readWord s 0 .ve { wt .mem 0 1 true with obj := 8 } with | .val v t => (v, t) | _ => (0, s)
theorem witness_read_below : (sRead 9).liveOn 0 = some 0 ∧ (((sRead 9).core 0).eng .ve).wait = some { wt .mem 0 1 true with obj := 8 }
    ∧ readWord ((sRead 9).plant []) 0 .ve { wt .mem 0 1 true with obj := 8 } = .val (readGives (sRead 9)).1 (readGives (sRead 9)).2
    ∧ (readGives (sRead 9)).1 < 10 := by decide +kernel
theorem witness_read_there : readWord ((sRead 10).plant []) 0 .ve { wt .mem 0 1 true with obj := 8 } = .val (readGives (sRead 10)).1 (readGives (sRead 10)).2
    ∧ 10 ≤ (readGives (sRead 10)).1 := by decide +kernel

def sTimeout (v : Nat) : State := ctrs (waiting live (wt .counter 4 9 false)) [(3, v)]
theorem witness_timeout_met : fittedCore (sTimeout 10) c0 ∧ (sTimeout 10).liveOn 0 = some 0 ∧ Engine.ve ≠ .cc
    ∧ (((sTimeout 10).core 0).eng .ve).wait = some (wt .counter 4 9 false) ∧ (wt .counter 4 9 false).timeout ≠ 0 ∧ (4 : Nat) ≤ 4
    ∧ ((sTimeout 10).core 0).ctr 3 = some ⟨0, 0, 3, 10⟩ ∧ (10 : Nat) ≤ 10 := by unfold fittedCore; decide +kernel
theorem witness_timeout_ends : (sTimeout 9).liveOn 0 = some 0 ∧ (((sTimeout 9).core 0).eng .ve).wait = some (wt .counter 4 9 false)
    ∧ ((sTimeout 9).core 0).ctr 3 = some ⟨0, 0, 3, 9⟩ ∧ (9 : Nat) < 10 ∧ ((sTimeout 9).core 0).hw.regs.timeout.valid = false := by decide +kernel

def sMadd : State := descs { (queue live .ve wMadd .waiting id) with mem := Mem.setBytes [] 0x1FFF8 (natLe 8 (2 ^ 64 - 1)) } (dWord 0x1FFF8)
theorem witness_madd : fittedCore sMadd c0 ∧ sMadd.head 0 .ve 0x14 = some (0, entry wMadd .waiting) ∧ ((sMadd.core 0).eng .ve).uncovered = false
    ∧ Engine.ve ≠ .te ∧ readDesc (sMadd.plant []) 0 .ve (wf wMadd 111 100) .word (entry wMadd .waiting) = .ok (dWord 0x1FFF8) sMadd
    ∧ locate sMadd 0 0x1FFF8 .atomic false = .at_ 0x1FFF8 0 1 ∧ realAddr sMadd 0x1FFF8 := by
  unfold fittedCore realAddr; decide +kernel
def sMaddTe : State := descs (queue live .te wMadd .waiting id) (dWord 0x1FFF8)
theorem witness_madd_te : sMaddTe.head 0 .te 0x14 = some (0, entry wMadd .waiting) ∧ (sMaddTe.core 0).cx.te.uncovered = false
    ∧ (sMaddTe.core 0).mayRead .te = true
    ∧ readDesc (sMaddTe.plant []) 0 .te (wf wMadd 111 100) .word (entry wMadd .waiting) = .ok (dWord 0x1FFF8) sMaddTe := by decide +kernel
/-- The add outstanding under number 3. -/
def opMadd : TeOp := ⟨3, 0, 0, .madd 0x1FFF8 5, .made, true, none, granVas 0x1FFF8 8, false, false⟩
def sMaddOut : State := live.onHw 0 (fun h => { h with ops := [opMadd], nextOp := 4 })
theorem witness_madd_out : sMaddOut.trellis.applying = none ∧ opMadd.kind = .madd 0x1FFF8 5 ∧ opMadd.dead = false
    ∧ (sMaddOut.ctx 0).st ≠ .closing ∧ opReady sMaddOut 0 opMadd false [(0x1FFF8, 8, .atomic)] ∧ 0x1FFF8 % 64 ≤ 56
    ∧ locate sMaddOut 0 0x1FFF8 .atomic false = .at_ 0x1FFF8 0 1 ∧ realAddr sMaddOut 0x1FFF8 := by
  unfold opReady realAddr; decide +kernel
/-- R224: the sum is taken modulo 2^64. -/
theorem test_madd_wraps : (match execMadd c0 .ve [] sMadd with | .next t => leNat (Mem.bytes t.mem 0x1FFF8 8) | _ => 99) = 4 := by decide +kernel

/-- Barrier 15 of partition 0: cores 0 and 1 of the VE; R, and the round core 0 has reached. -/
def sBarrier (r g : Nat) : State :=
  let s := queue live .ve wBarrier .waiting id
  s.setPart 0 { s.part 0 with barriers := List.replicate 15 .empty ++ [⟨3, true, 2, 0x200, r, [(0, g)], []⟩] }
theorem witness_barrier_admits : let s := sBarrier 0 1
    fittedCore s c0 ∧ s.head 0 .ve 0x15 = some (0, entry wBarrier .waiting) ∧ ((s.core 0).eng .ve).uncovered = false
    ∧ (nth .empty (s.part 0).barriers 15).valid = true ∧ bit (nth .empty (s.part 0).barriers 15).cores 0 = true
    ∧ (nth .empty (s.part 0).barriers 15).engine = eNum .ve ∧ 1 + 1 ≤ 0 + 2
    ∧ (∃ m ∈ (nth .empty (s.part 0).barriers 15).members, m ≠ 0 ∧ get 0 (nth .empty (s.part 0).barriers 15).g m ≤ 0)
    ∧ (nth .empty (s.part 0).barriers 15).stalled = [] := by
  unfold fittedCore; decide +kernel
theorem witness_barrier_waits : let s := sBarrier 0 2
    s.head 0 .ve 0x15 = some (0, entry wBarrier .waiting) ∧ (nth .empty (s.part 0).barriers 15).valid = true
    ∧ get 0 (nth .empty (s.part 0).barriers 15).g 0 + 1 = 3 ∧ (nth .empty (s.part 0).barriers 15).r + 2 < 3 := by decide +kernel

theorem witness_stall_none : 0 < live.model.dies ∧ 0 < 8 ∧ (live.part 0).resident = some 0 ∧ (live.part 0).st = .inService
    ∧ roleUp (staffed live) 0 2 = true ∧ (staffed live).waits 0 = [] := by decide +kernel
/-- The VE of core 0 alone in a wait, whose print has stood since time 0. -/
def sStall : State :=
  let s := onD (waiting (staffed live) (wt .counter 0 2 false)) (fun x => { x with time := 50000 })
  s.setCtx 0 { s.ctx 0 with fp := [(2, (stallPrint (sampleWords s 0 0) 0 0 (wt .counter 0 2 false), 0))] }
theorem witness_stall : (sStall.part 0).resident = some 0 ∧ roleUp sStall 0 2 = true ∧ (sStall.part 0).st = .inService
    ∧ sStall.waits 0 = [(0, .ve, wt .counter 0 2 false)]
    ∧ look (sStall.ctx 0).fp (4 * 0 + eNum .ve) = some (stallPrint (sampleWords sStall 0 0) 0 0 (wt .counter 0 2 false), 0)
    ∧ 0 + (sStall.ctx 0).stallWin ≤ (sStall.die 0).time ∧ nth 0 (sStall.part 0).phys 0 < 68 ∧ (sStall.die 0).reports.length < 256 := by
  decide +kernel

/-! ### Outer-product engine (chapters 03 and 05) -/

/-- A broadcast or bank ring of the OPE: one BF16 row VALID. -/
def ringB (line : Nat) : Ring := ring line 4 3 1 (dTens 1 128 1) (valid 1 1 128)
/-- OPLOAD of array 2 from ring 7. -/
def wOpload : CmdWord := word 0x40 1 [(4, 108), (7, 93)]
def sOpload : State := withRing (queue live .ope wOpload .waiting id) 7 (ringB 0)
theorem witness_opload : fittedCore sOpload c0 ∧ (sOpload.core 0).cx.arrs.length = 4
    ∧ sOpload.head 0 .ope 0x40 = some (0, entry wOpload .waiting) ∧ sOpload.duoOf 0 = false ∧ arraysOf false (wf wOpload 111 108) = [2]
    ∧ loadRing wOpload 2 = 7 ∧ ((sOpload.core 0).ring 7).opeCause = 0 ∧ ((sOpload.core 0).arr 2).active ≤ 1
    ∧ ((sOpload.core 0).arr 2).shadow.st = .empty ∧ ((sOpload.core 0).ring 7).ready = some (0, valid 1 1 128) ∧ (sOpload.core 0).takes 7 0 = true := by
  unfold fittedCore; decide +kernel
/-- Array 2 with its shadow bank LOADING from slot 0 of ring 7. -/
def sLanding : State :=
  (withRing (queue live .ope wOpload .begun id) 7 (ringB 0)).onArr 0 2 (fun x => { x with b1 := ⟨.loading, 0, 7, [0], false, false, 0, false, [], false⟩ })
theorem witness_landed : 2 < 4 ∧ (sLanding.core 0).cx.arrs.length = 4 ∧ sLanding.liveOn 0 = some 0
    ∧ ((sLanding.core 0).arr (arrOf (sLanding.duoOf 0) 2)).landing = some 1 ∧ (((sLanding.core 0).arr 2).bank 1).slots = [0]
    ∧ (nth .empty ((sLanding.core 0).ring 7).slots 0).st = .valid := by decide +kernel
def wOpswap : CmdWord := word 0x41 1 [(8, 108)]
theorem witness_opswap : let s := queue live .ope wOpswap .waiting id
    s.head 0 .ope 0x41 = some (0, entry wOpswap .waiting) ∧ arraysOf (s.duoOf 0) (wf wOpswap 111 108) = [3]
    ∧ (s.core 0).cx.arrs.length = 4 := by decide +kernel

/-- OPRUN of one step on arrays 0 and 3 in OS, clearing array 3, from ring 7. -/
def wOprun : CmdWord := word 0x42 1 [(1, 104), (1, 110), (1, 92), (7, 87), (8, 82)]
def sOprun : State := withRing (queue live .ope wOprun .waiting id) 7 (ringB 0)
theorem witness_oprun : fittedCore sOprun c0 ∧ sOprun.head 0 .ope 0x42 = some (0, entry wOprun .waiting)
    ∧ ((sOprun.core 0).ring (wf wOprun 91 87)).opeCause = 0
    ∧ (arraysOf (sOprun.duoOf 0) (wf wOprun 85 82)).any ((sOprun.core 0).runOn (sOprun.duoOf 0)) = false := by
  unfold fittedCore; decide +kernel
/-- The sums of a row in flight on array 1. -/
def flight : Flight := ⟨1, true, 127, [.zero, .zero], 0⟩
theorem witness_sum : let s := live.onCx 0 (fun x => { x with flights := [flight] })
    1 < 4 ∧ (s.core 0).cx.arrs.length = 4 ∧ (s.core 0).ctx.isSome = true ∧ s.haltedAt 0 = false
    ∧ (s.core 0).cx.flights.find? (fun f => f.arr == 1) = some flight := by decide +kernel

/-- The run of wOprun with its broadcast slot open, and the tag of the banks of arrays 0 and 3. -/
def sBeat (tag : Nat) : State :=
  let s := withRing (queue live .ope wOprun .begun id) 7 (ringB 0)
  let load := fun (s : State) (a : Nat) => s.onArr 0 a (fun x => { x with b0 := ⟨.loaded, tag, 8, [0], false, false, 9, false, [(s.core 0).tile 7 0], false⟩ })
  (load (load s 0) 3).onCx 0 (fun x => { x with run := some ⟨0, 0, 0, 0, [0]⟩, bpos := [(7, (0, 0))] })
def beatBad (s : State) : List Nat :=
  mismatched (s.core 0) (runArrs (s.duoOf 0) wOprun) (nth .empty ((s.core 0).ring 7).slots 0).tag
theorem witness_beat : fittedCore (sBeat 9) c0 ∧ (sBeat 9).liveOn 0 = some 0 ∧ ((sBeat 9).core 0).cx.run = some ⟨0, 0, 0, 0, [0]⟩
    ∧ ((sBeat 9).core 0).cx.ope.q.find? (fun m => m.seq == 0) = some (entry wOprun .begun) ∧ ((sBeat 9).core 0).cx.halted = false
    ∧ ((sBeat 9).core 0).cx.ope.stopped = false ∧ ((sBeat 9).core 0).cx.arrs.any (fun a => a.b0.back || a.b1.back) = false
    ∧ ((sBeat 9).core 0).takes 7 0 = true ∧ ((sBeat 9).core 0).owesLoad 0 1 = false
    ∧ ((sBeat 9).die 0).adm ≠ 0 ∧ look ((sBeat 9).core 0).cx.bpos (wf wOprun 91 87) = some (0, 0) ∧ [0].contains 0 = true
    ∧ runArrs ((sBeat 9).duoOf 0) wOprun = [0, 3] ∧ beatBad (sBeat 9) = [] := by unfold fittedCore; decide +kernel
theorem witness_skew : beatBad (sBeat 8) = [0, 3] ∧ ((sBeat 8).core 0).hw.regs.skew.valid = false
    ∧ ((sBeat 8).core 0).cx.halted = false ∧ look ((sBeat 8).core 0).cx.bpos 7 = some (0, 0) := by decide +kernel

/-- ACCREAD of array 3 as BF16 into ring 4. -/
def wAccread : CmdWord := word 0x43 1 [(3, 110), (4, 105), (1, 100)]
def sAccread : State := withRing (queue live .ope wAccread .waiting id) 4 (freeRing 0 512 1 2 (dTens 1 128 128))
theorem witness_accread : fittedCore sAccread c0 ∧ sAccread.head 0 .ope 0x43 = some (0, entry wAccread .waiting)
    ∧ (sAccread.core 0).runOn (sAccread.duoOf 0) 3 = false ∧ ((sAccread.core 0).ring 4).fillable .ope = true
    ∧ readShape (sAccread.duoOf 0) ((sAccread.core 0).arr 3).isMode = (128, 128)
    ∧ slotBytes 1 128 128 0 0 ≤ ((sAccread.core 0).ring 4).geom.slotLines * 64 ∧ ((sAccread.core 0).ring 4).tailFree = true
    ∧ wf wAccread 104 100 ∈ [0, 1, 3, 4] := by unfold fittedCore; decide +kernel

/-! ### Vector engine (chapters 04, 06 and 11) -/

/-- VCVT of one tile from ring 1 to ring 2 as BF16. -/
def wVcvt : CmdWord := word 0x81 2 [(2, 107), (1, 102), (1, 80), (1, 75)]
def veCmd0 : VeCmd := ⟨0, 0, (0, 0), .zero, (0, 0, 0), [], []⟩
/-- Ring 1 with one BF16 row VALID, ring 2 free. -/
def veRings (s : State) : State :=
  withRing (withRing s 1 (ring 0 4 3 2 (dTens 1 128 1) (valid 1 1 128))) 2 (freeRing 12 512 2 3 (dTens 1 128 1))
def sVcvt : State := (veRings (queue live .ve wVcvt .begun id)).onCx 0 (fun x => { x with veCmd := some veCmd0 })
theorem witness_ve_row : fittedCore sVcvt c0 ∧ (0x81, Instr.vcvt) ∈ veRows ∧ veReady sVcvt 0 0x81 0 (entry wVcvt .begun) veCmd0 (dTens 1 128 1)
    ∧ veSettled (sVcvt.core 0) ∧ (veSources wVcvt).Nodup ∧ ((sVcvt.core 0).ring (veDst wVcvt)).partialRec = false
    ∧ veTiles wVcvt ≤ veCmd0.tiles + 1
    ∧ (VeOut.cmd (veOutput (sVcvt.core 0) wVcvt (dTens 1 128 1) veCmd0)).adds wVcvt = [] :=
  ⟨⟨by decide, by decide⟩, by simp [veRows], by unfold veReady; decide +kernel, .inr (by decide +kernel), by decide, by decide +kernel, by decide, by decide +kernel⟩
theorem witness_ve_more : let w := word 0x81 2 [(2, 107), (1, 102), (2, 80), (1, 75)]
    veReady ((veRings (queue live .ve w .begun id)).onCx 0 (fun x => { x with veCmd := some veCmd0 })) 0 0x81 0 (entry w .begun) veCmd0 (dTens 1 128 1)
    ∧ veCmd0.tiles + 1 < veTiles w := by unfold veReady; decide +kernel
theorem witness_ve_cause : let s := queue live .ve wVcvt .waiting id
    (s.core 0).cx.veCmd = none ∧ s.head 0 .ve 0x81 = some (0, entry wVcvt .waiting) ∧ veCause (s.core 0) wVcvt = 5 := by decide +kernel
theorem witness_ve_begin : let s := veRings (queue live .ve wVcvt .waiting id)
    (s.core 0).cx.veCmd = none ∧ s.head 0 .ve 0x81 = some (0, entry wVcvt .waiting) ∧ veCause (s.core 0) wVcvt = 0
    ∧ veMemory (s.plant (memFlaws [])) 0 0 (entry wVcvt .waiting) = .ok (0, 0) [] s := by decide +kernel

/-- ADAMQ of one tile: gradients in ring 1, master weights in ring 2, moments in ring 3; into rings 4 and 5. -/
def wAdamq : CmdWord := word 0x8D 2 [(4, 107), (1, 102), (2, 97), (3, 92), (1, 80), (5, 75)]
def sAdamq : State :=
  let s := (queue live .ve wAdamq .begun id).onCx 0 (fun x => { x with veCmd := some { veCmd0 with hyper := zeros 64 } })
  let s1 := withRing s 1 (ring 0 4 3 2 (dTens 1 64 1) { valid 1 1 64 with poison := true })
  let s2 := withRing s1 2 (ring 16 4 3 2 (dTens 1 64 1) (valid 1 1 64))
  let s3 := withRing s2 3 (ring 32 264 3 2 (dTens 10 128 1) (valid 10 1 128))
  let s4 := withRing (withRing s3 4 (freeRing 1000 4 2 3 (dTens 1 64 1))) 5 (freeRing 2000 264 2 3 (dTens 10 128 1))
  s4.onHw 0 (fun h => { h with tbad := [(0, true), (1, true)] })
def adamqOut : VeOut := veOutput (sAdamq.core 0) wAdamq (dTens 1 64 1) { veCmd0 with hyper := zeros 64 }
theorem witness_adamq : veReady sAdamq 0 0x8D 0 (entry wAdamq .begun) { veCmd0 with hyper := zeros 64 } (dTens 1 64 1)
    ∧ veSettled (sAdamq.core 0) ∧ (veSources wAdamq).Nodup ∧ adamqOut.moments = some (adamqOut.moments.getD adamqOut.tile)
    ∧ ((sAdamq.core 0).ring (veMout wAdamq)).tailFree = true ∧ veMout wAdamq ≠ veDst wAdamq
    ∧ ((sAdamq.core 0).ring (veDst wAdamq)).partialRec = false ∧ ((sAdamq.core 0).ring (veMout wAdamq)).partialRec = false :=
  ⟨by unfold veReady; decide +kernel, .inr (by decide +kernel), by decide, rfl, by decide +kernel, by decide, by decide +kernel, by decide +kernel⟩

theorem witness_vpad : let s := queue live .ve wVpad .waiting id
    fittedCore s c0 ∧ s.head 0 .ve 0x80 = some (0, entry wVpad .waiting) := by unfold fittedCore; decide +kernel
/-- A write of line 2 at issue 3, still under way at issue 6, in check mode; VCVT reads lines 0 to 3. -/
def sCheck : State := ((veRings (queue live .ve wVcvt .begun id)).onCx 0 (fun x => { x with check := true, veCmd := some veCmd0 })).onHw 0 (fun h => { h with issue := 6, writes := [⟨2, [], false, 3, 1⟩] })
theorem witness_check : (sCheck.liveOn 0).isSome = true ∧ (sCheck.core 0).cx.check = true
    ∧ (1, 0) ∈ (sCheck.core 0).veReads ∧ ((sCheck.core 0).ring 1).geom.line 0 ≤ 2
    ∧ 2 < ((sCheck.core 0).ring 1).geom.line 0 + ((sCheck.core 0).ring 1).geom.slotLines
    ∧ (sCheck.core 0).hw.writes.filter (fun w => w.line == 2 && decide ((sCheck.core 0).hw.issue < w.issue + 4)) = [⟨2, [], false, 3, 1⟩] := by decide +kernel

/-- R116, R139: 448 is the largest magnitude of E4M3, and 465 and above saturate. -/
theorem test_e4m3 : Fmt.e4m3.encode .rne (.fin false 448 1) = (0x7E, .plain) ∧ Fmt.e4m3.encode .rne (.fin true 465 1) = (0xFE, .sat) := by decide
/-- R137: one draw of the generator. -/
theorem test_lfsr : lfsr 1 = 0x80200003 ∧ lfsr 4 = 2 := by decide
/-- R202: VPAD with N 4 starts 4 issues. -/
theorem test_vpad : (match execVpad c0 (queue live .ve wVpad .waiting id) with | .next t => (t.core 0).hw.issue | _ => 0) = 4 := by decide +kernel
/-- R84: OPSWAP of array 3 exchanges its banks and no other array's. -/
theorem test_opswap : (match execOpswap c0 (queue live .ope wOpswap .waiting id) with
    | .next t => (t.core 0).cx.arrs.map Arr.active | _ => []) = [0, 0, 0, 1] := by decide +kernel

/-! ### Transfer engine (chapter 08) -/

/-- A command of the TE begun, with its descriptors; and core 0 with it alone on the queue. -/
def te (w : CmdWord) (d d2 : Option Desc) : TeCmd := ⟨0, w, 5, 0, false, 0, [], 0, 0, [], d, d2⟩
def teOn (s : State) (t : TeCmd) : State := (queue s .te t.word .begun id).onCx 0 (fun x => { x with begun := [t] })

/-- TFILL of ring 3, one tile. -/
def wTfill : CmdWord := word 0xC1 3 [(3, 107), (1, 87)]
def sFillTe : State := withRing (teOn live (te wTfill none none)) 3 (freeRing 0 4 3 2 (dTens 1 128 1))
theorem witness_tfill : fittedCore sFillTe c0 ∧ teTurn sFillTe 0 0xC1 0 (te wTfill none none)
    ∧ ((sFillTe.core 0).ring 3).bound = some ⟨1, dTens 1 128 1, 0⟩ ∧ bit wTfill.toNat 86 = false ∧ ((sFillTe.core 0).ring 3).tailFree = true := by
  unfold fittedCore teTurn teNext; decide +kernel
theorem witness_tfill_full :
    let s := withRing (teOn live (te wTfill none none)) 3 { freeRing 0 4 3 2 (dTens 1 128 1) with slots := [valid 1 1 128, .empty, .empty] }
    teTurn s 0 0xC1 0 (te wTfill none none) ∧ ((s.core 0).ring 3).tailFree = false := by unfold teTurn teNext; decide +kernel
/-- TFILL with MCAST into group 0, whose members are cores 0 and 1. -/
def wMcast : CmdWord := word 0xC1 3 [(3, 107), (1, 86), (1, 87)]
def sMcast : State :=
  let r := freeRing 0 4 0 2 (dTens 1 128 1)
  let s := withRing (teOn live (te wMcast none none)) 3 r
  let s1 := s.onRing 1 3 (fun _ => r)
  s1.setPart 0 { s1.part 0 with groups := [(0, 3)] }
theorem witness_mcast : teTurn sMcast 0 0xC1 0 (te wMcast none none) ∧ ((sMcast.core 0).ring 3).bound = some ⟨1, dTens 1 128 1, 0⟩
    ∧ bit wMcast.toNat 86 = true ∧ sMcast.groupCores 0 0 = [0, 1] ∧ (sMcast.groupCores 0 0).Nodup
    ∧ ∀ m ∈ sMcast.groupCores 0 0, ((sMcast.core m).ring 3).geom.valid = true ∧ ((sMcast.core m).ring 3).geom.prod = 0
      ∧ ((sMcast.core m).ring 3).geom.group = 0
      ∧ ((sMcast.core m).ring 3).tailFree = true := by unfold teTurn teNext; decide +kernel

/-- TDRAIN of ring 3; a slot VALID at READ. -/
def wTdrain : CmdWord := word 0xC2 3 [(3, 107), (1, 87)]
def ringD : Ring := ring 0 4 2 3 (dTens 1 128 1) (valid 1 1 128)
def sDrain : State := withRing (teOn live (te wTdrain none none)) 3 ringD
theorem witness_tdrain : fittedCore sDrain c0 ∧ teTurn sDrain 0 0xC2 0 (te wTdrain none none)
    ∧ ((sDrain.core 0).ring 3).bound = some ⟨1, dTens 1 128 1, 0⟩ ∧ ((sDrain.core 0).ring 3).ready = some (0, valid 1 1 128)
    ∧ (valid 1 1 128).fmt = (dTens 1 128 1).fmt := by unfold fittedCore teTurn teNext; decide +kernel
/-- TPUT of ring 3 through queue pair handle 2. -/
def wTput : CmdWord := word 0xC7 3 [(3, 107), (1, 87), (1, 75)]
def dRemote : Desc := { dTens 1 128 1 with kind := .remote, remote := 2 + 0x5555 * 2 ^ 16, base := 0x9000 }
def sPut : State := withRing (teOn (paired live) (te wTput (some dRemote) none)) 3 ringD
theorem witness_tput : teTurn sPut 0 0xC7 0 (te wTput (some dRemote) none) ∧ look (sPut.ctx 0).qps (dRemote.remote % 65536) = some (0, 3)
    ∧ ((sPut.core 0).ring 3).ready = some (0, valid 1 1 128) ∧ sPut.qp 0 3 = some qp0 ∧ qp0.error = false := by unfold teTurn teNext; decide +kernel

/-- The same with the queue pair in the error state. -/
def sPutBad : State := sPut.setPort 0 { sPut.port 0 with qps := [(3, { qp0 with error := true })] }
theorem witness_tput_error : teTurn sPutBad 0 0xC7 0 (te wTput (some dRemote) none)
    ∧ look (sPutBad.ctx 0).qps (dRemote.remote % 65536) = some (0, 3) ∧ sPutBad.qp 0 3 = some { qp0 with error := true } := by
  unfold teTurn teNext; decide +kernel

/-- TGATHER and TSCATTER of one row, whose index stands at address 0x1000. -/
def wTgather : CmdWord := word 0xC3 3 [(3, 107), (1, 87)]
def wTscatter : CmdWord := word 0xC4 3 [(3, 107), (1, 87)]
def dIx : Desc := { dTens 0 16 1 with kind := .index, base := 0x1000 }
def teIx (w : CmdWord) (lines : List (Nat × Bool × List Int)) : TeCmd := { te w (some dIx) none with lines := lines }
def got : List (Nat × Bool × List Int) := [(0x40, false, List.replicate 16 0)]
def needOf (t : TeCmd) : List Nat :=
  (indexLines dIx (t.pos + (ixUnit (dTens 1 128 1) t.word t.done).1) (ixUnit (dTens 1 128 1) t.word t.done).2.1).filter
    (fun l => !t.lines.any (fun z => z.1 == l))
def sGather (lines : List (Nat × Bool × List Int)) : State :=
  withRing (teOn live (teIx wTgather lines)) 3 (freeRing 0 512 3 2 (dTens 1 128 1))
theorem witness_index_first : fittedCore (sGather []) c0 ∧ teTurn (sGather []) 0 0xC3 0 (teIx wTgather [])
    ∧ (((sGather []).core 0).ring 3).bound = some ⟨1, dTens 1 128 1, 0⟩ ∧ (teIx wTgather []).d = some dIx
    ∧ needOf (teIx wTgather []) = [0x40] ∧ ((sGather []).core 0).hw.ops = [] := by unfold fittedCore teTurn teNext; decide +kernel
theorem witness_index_waits :
    let s := (sGather []).onHw 0 (fun h => { h with ops := [⟨0, 0, 0, .index 0x40, .made, false, none, [], false, false⟩], nextOp := 1 })
    teTurn s 0 0xC3 0 (teIx wTgather []) ∧ needOf (teIx wTgather []) ≠ []
    ∧ (needOf (teIx wTgather [])).find? (fun l => !([0x40] : List Nat).contains l) = none := by unfold teTurn teNext; decide +kernel
theorem witness_gather : teTurn (sGather got) 0 0xC3 0 (teIx wTgather got) ∧ needOf (teIx wTgather got) = []
    ∧ (((sGather got).core 0).ring 3).tailFree = true := by unfold teTurn teNext; decide +kernel
def sScatter : State := withRing (teOn live (teIx wTscatter got)) 3 ringD
theorem witness_scatter : (0xC4, Instr.tscatter c0) ∈ [(0xC3, Instr.tgather c0), (0xC4, .tscatter c0)]
    ∧ teTurn sScatter 0 0xC4 0 (teIx wTscatter got) ∧ needOf (teIx wTscatter got) = []
    ∧ ((sScatter.core 0).ring 3).ready = some (0, valid 1 1 128) ∧ (valid 1 1 128).fmt = (dTens 1 128 1).fmt := by unfold teTurn teNext; decide +kernel

def wTcopy : CmdWord := word 0xC5 3 [(1, 100), (2, 88)]
def wTzero : CmdWord := word 0xC6 3 [(2, 100)]
theorem witness_tcopy : let t := te wTcopy (some (dTens 1 128 1)) (some { dTens 1 128 1 with base := 0x1000 })
    fittedCore (teOn live t) c0 ∧ teTurn (teOn live t) 0 0xC5 0 t ∧ t.d2 = some { dTens 1 128 1 with base := 0x1000 }
    ∧ (Desc.segments { dTens 1 128 1 with base := 0x1000 })[0]? = some [(0x1000, 256)] ∧ t.d = some (dTens 1 128 1) := by
  unfold fittedCore teTurn teNext; decide +kernel
theorem witness_tzero : let t := te wTzero none (some (dTens 1 128 1))
    teTurn (teOn live t) 0 0xC6 0 t ∧ (dTens 1 128 1).segments[0]? = some [(0, 256)] ∧ t.d = none := by unfold teTurn teNext; decide +kernel
/-- TRED into bucket 6 of collective handle 4. -/
def wTred : CmdWord := word 0xC8 3 [(4, 104), (6, 88), (1, 76)]
theorem witness_tred : let t := te wTred (some (dTens 0 64 1)) none
    teTurn (teOn (gathered live coll0) t) 0 0xC8 0 t ∧ tredReady (teOn (gathered live coll0) t) 0 wTred = some (0, 1, 0)
    ∧ (((teOn (gathered live coll0) t).coll 0 1).bind (fun c => (c.bucket 0).map ((dTens 0 64 1).gradOf c))).getD false = true
    ∧ (((teOn (gathered live coll0) t).coll 0 1).bind (fun c => (c.bucket 0).map ((dTens 0 65 1).gradOf c))).getD false = false := by
  unfold teTurn teNext; decide +kernel
/-- RE-ARM of ring 3 with NEXT, from the handle it is bound to. -/
def wArm (next : Nat) : CmdWord := word 0xC0 3 [(1, 100), (next, 90)]
def dArm : Desc := { dTens 1 128 1 with ring := some 3, layerStride := 0x800, tagBase := 40 }
theorem witness_arm : let t := te (wArm 1) (some dArm) none
    let s := withRing (teOn live t) 3 (ring 0 4 3 2 dArm (valid 1 1 128))
    teTurn s 0 0xC0 0 t ∧ dArm.ring = some 3 ∧ ((s.core 0).ring 3).geom.valid = true ∧ ((s.core 0).ring 3).bound = some ⟨1, dArm, 0⟩
    ∧ bit (wArm 1).toNat 90 = true ∧ 1 = wf (wArm 1) 111 100 := by unfold teTurn teNext; decide +kernel
theorem witness_arm_anew : let t := te (wArm 0) (some dArm) none
    teTurn (withRing (teOn live t) 3 (ring 0 4 3 2 dArm (valid 1 1 128))) 0 0xC0 0 t ∧ bit (wArm 0).toNat 90 = false := by
  unfold teTurn teNext; decide +kernel

/-- An operation of the TE outstanding alone on core 0, with both granules of object 0 and its window cached. -/
def opOn (s : State) (kind : TeOpKind) (src : Source) : State :=
  (s.onHw 0 (fun h => { h with ops := [⟨6, 0, 0, kind, src, false, none, [], false, false⟩], nextOp := 7 })).setCluster 0 0
    { Cluster.init with winCache := [(0, 0)], granCache := [(0, 0), (0, 1)] }
def op0 (kind : TeOpKind) (src : Source) : TeOp := ⟨6, 0, 0, kind, src, false, none, [], false, false⟩
def srcWalk : Source := .walk (dTens 1 128 1) 0 0
def filling : Slot := ⟨.filling, 9, 1, 1, 128, false, false, 0, 0, srcWalk⟩
def sFillOp : State := opOn (withRing live 3 (ring 0 4 3 2 (dTens 1 128 1) filling)) (.fill 3 0 []) srcWalk
theorem witness_fill_op : fittedCore sFillOp c0 ∧ sFillOp.trellis.applying = none ∧ (op0 (.fill 3 0 []) srcWalk).dead = false
    ∧ 0 < ((sFillOp.core 0).ring 3).slots.length ∧ opReady sFillOp 0 (op0 (.fill 3 0 []) srcWalk) true (runAccs (srcWalk.runs 1 128 []) .read) := by
  unfold fittedCore opReady; decide +kernel
def sStoreOp : State := opOn (withRing live 3 ringD) (.store 3 0) srcWalk
theorem witness_store_op : (nth .empty ((sStoreOp.core 0).ring 3).slots 0).st = .valid
    ∧ (∀ x ∈ (sStoreOp.core 0).hw.ops, x.id ≠ 6 → x.reads 3 0 = false) ∧ storeShape (dTens 1 128 1) (valid 1 1 128) 0 = (1, 128)
    ∧ opReady sStoreOp 0 (op0 (.store 3 0) srcWalk) true (runAccs (walkRuns (dTens 1 128 1) 0 0 1 128) .write) := by unfold opReady; decide +kernel
theorem witness_zero_op : let k := TeOpKind.zero [(0x1FFFF, 1)]
    opReady (opOn live k .made) 0 (op0 k .made) true [(0x1FFFF, 1, .write)] ∧ 0x1FFFF % 64 + 1 ≤ 64
    ∧ locate (opOn live k .made) 0 0x1FFFF .write true = .at_ 0x1FFFF 0 1 ∧ realAddr (opOn live k .made) 0x1FFFF := by
  unfold opReady realAddr; decide +kernel
theorem witness_copy_op : let k := TeOpKind.copy [(0x100, 0x10000, 64)]
    opReady (opOn live k .made) 0 (op0 k .made) true [(0x100, 64, .read), (0x10000, 64, .write)] ∧ 0x100 % 64 + 64 ≤ 64 ∧ 0x10000 % 64 + 64 ≤ 64
    ∧ locate (opOn live k .made) 0 0x100 .read true = .at_ 0x100 0 0 ∧ locate (opOn live k .made) 0 0x10000 .write true = .at_ 0x10000 0 1
    ∧ realAddr (opOn live k .made) 0x100 ∧ realAddr (opOn live k .made) 0x10000 := by unfold opReady realAddr; decide +kernel
theorem witness_miss_op : let s := live.onHw 0 (fun h => { h with ops := [op0 (.zero [(0x40, 8)]) .made], nextOp := 7 })
    (s.core 0).hw.ops.find? (fun x => x.id == 6) = some (op0 (.zero [(0x40, 8)]) .made)
    ∧ probeRun s (s.core 0).die (s.core 0).cluster 0 0x40 8 .write true [] = .miss 0x40
    ∧ s.haltedAt 0 = false := by decide +kernel
theorem witness_xlate : let o : TeOp := { op0 (.zero [(0x40, 8)]) .made with waits := some 0x40 }
    let s := live.onHw 0 (fun h => { h with ops := [o], nextOp := 7 })
    (s.core 0).hw.ops = [o] ∧ (s.core 0).cluster < 8 ∧ (s.cluster 0 0).halted = false ∧ (∀ p ∈ s.cores, p.1 ≠ 0 → p.2.hw.ops = []) ∧ rising s.cores = true
    ∧ (s.ctx 0).windows.find? (fun w => w.has 0x40) = some ⟨0, 2, 0, 0, true, true, true⟩ := by decide +kernel

/-- R200: the index −1 reads nothing, an index outside the tensor is counted OOB. -/
theorem test_resolve : resolve { dIx with base := 0 } [(0, false, [2, -1, 7, -2])] 0 4 7 = ([(some 2, false), (none, false), (none, false), (none, false)], 2, 0) := by decide
/-- R244: a window of replay 2 goes back to HEAD after its second slot. -/
theorem test_replay : ({ ringD with geom := { ringD.geom with replay := 2 }, read := 1, sinceHead := 1 } : Ring).advance.read = 0 := by decide

/-! ### Memory and contexts (chapters 09 and 10) -/

/-- CREATE of a NEAR_PIN object of three granules on cluster 0 of die 0. -/
def rCreate : Taken := req 0x0101 (pack 16 [(1, 1, 1), (4, 4, 3)])
theorem witness_create : let s := asking live rCreate
    asked s 0 0x0101 rCreate ∧ s.fenced 0 = false ∧ leastFree s.objs (0 * 2 ^ 17) (2 ^ 17) = some 1
      ∧ allocate s 0 1 3 true = some [2, 3, 4] ∧ s.fw.bootDie = 0 ∧ rackBusy s 0 (2 * (maskList 1).headD 0 + 1 % 2) < 8 := by unfold asked; decide +kernel

/-- A state with object 0 changed, one request taken. -/
def withObj (s : State) (o : Obj) (r : Taken) : State := asking { s with objs := [(0, o)] } r
def rFree : Taken := req 0x0102 (pack 4 [])
theorem witness_free : let o := { obj0 with maps := 0 }; let s := withObj live o rFree
    asked s 0 0x0102 rFree ∧ s.obj 0 = some o ∧ o.maps = 0 ∧ o.pins = 0 ∧ o.work = none ∧ o.queue = [] := by unfold asked; decide +kernel
theorem witness_free_busy : let s := asking live rFree
    asked s 0 0x0102 rFree ∧ s.obj 0 = some obj0 ∧ obj0.maps ≠ 0 := by unfold asked; decide +kernel
/-- MAP of the first granule of object 0 to address 0x100000, and to address 0. -/
def rMap (va : Nat) : Taken := req 0x0103 (pack 32 [(8, 8, va), (24, 4, 1), (28, 1, 3)])
theorem witness_map : let s := asking live (rMap 0x100000); let w : Window := ⟨0x100000, 1, 0, 0, true, true, false⟩
    asked s 0 0x0103 (rMap 0x100000) ∧ s.ctxNamed 0 = true ∧ s.fenced 0 = false ∧ windowOk s w = true
      ∧ (s.ctx 0).windows.length < 4096 ∧ ∀ v ∈ (s.ctx 0).windows, v.meets w = false := by unfold asked; decide +kernel
theorem witness_map_overlap : let s := asking live (rMap 0x10000); let w : Window := ⟨0x10000, 1, 0, 0, true, true, false⟩
    asked s 0 0x0103 (rMap 0x10000) ∧ windowOk s w = true ∧ ∃ v ∈ (s.ctx 0).windows, v.meets w = true := by unfold asked; decide +kernel
def rUnmap : Taken := req 0x0104 (pack 16 [])
theorem witness_unmap : let s := asking live rUnmap; let w : Window := ⟨0, 2, 0, 0, true, true, true⟩
    asked s 0 0x0104 rUnmap ∧ s.ctxNamed 0 = true ∧ (s.ctx 0).windows.find? (fun w => w.base == field rUnmap.fields 8 8) = some w
      ∧ windowUsed s 0 w = false := by unfold asked; decide +kernel
theorem witness_unmap_waits : let s := (asking live rUnmap).onHw 0 (fun h => { h with ops := [⟨0, 0, 0, .zero [(0x1000, 64)], .made, false, none, [], false, false⟩] })
    windowUsed s 0 ⟨0, 2, 0, 0, true, true, true⟩ = true := by decide +kernel
def rQuery : Taken := req 0x0108 (pack 16 [])
theorem witness_query : let s := asking live rQuery
    asked s 0 0x0108 rQuery ∧ s.fenced 0 = false ∧ s.obj 0 = some obj0 := by unfold asked; decide +kernel
theorem witness_query_no_args : ∀ off k, argsAt (asking live rQuery) rQuery.sess off k = none := fun _ _ => rfl

/-! Racking: object 0 of policy RACK, in its states. -/

def racked (st : Nat) (g : GSt) (dirty : Nat) : Obj :=
  { obj0 with policy := 2, st := st, maps := 0, grans := [⟨g, dirty, 0, 4⟩, ⟨g, dirty, 1, 5⟩] }
def rPromote : Taken := req 0x0105 (pack 8 [])
def rEvict : Taken := req 0x0106 (pack 8 [])
def rFlush : Taken := req 0x0107 (pack 8 [])
theorem witness_promote : let o := racked 2 .near 0; let s := withObj live o rPromote
    asked s 0 0x0105 rPromote ∧ s.ctxNamed 0 = true ∧ s.fenced 0 = false ∧ s.obj 0 = some o ∧ o.policy = 2 ∧ o.st = 2 ∧ o.queue = []
      ∧ o.work = none ∧ o.todo = [] ∧ pinLimit s 0 0 = false ∧ rackBusy s 0 o.engine < 8 := by unfold asked; decide +kernel
def sEvict : State := let s := withObj live { racked 2 .near 0 with pins := 1 } rEvict; s.setCtx 0 { s.ctx 0 with pins := [(0, 1)] }
theorem witness_evict : asked sEvict 0 0x0106 rEvict ∧ sEvict.ctxNamed 0 = true ∧ sEvict.obj 0 = some { racked 2 .near 0 with pins := 1 }
    ∧ pinsOf sEvict 0 0 = 1 ∧ rackBusy sEvict 0 (racked 2 .near 0).engine < 8 := by unfold asked; decide +kernel
theorem witness_flush : let o := racked 0 .far 0; let s := withObj live o rFlush
    asked s 0 0x0107 rFlush ∧ s.obj 0 = some o ∧ o.policy = 2 ∧ o.queue = [] ∧ o.st = 0 ∧ o.work = none ∧ o.todo = []
      ∧ rackBusy s 0 o.engine < 8 := by unfold asked; decide +kernel
theorem witness_flush_dirty : let o := racked 2 .near 3; let s := withObj live o rFlush
    asked s 0 0x0107 rFlush ∧ s.obj 0 = some o ∧ o.st = 2 ∧ o.grans[0]? = some ⟨.near, 3, 0, 4⟩ ∧ 0 < o.granules := by unfold asked; decide +kernel
/-- Object 0 with the operation on its first granule under way. -/
def atWork (w : RWork) (policy : Nat) : Obj := { racked 1 .promoting 0 with policy := policy, work := some w, live := [0] }
theorem witness_promoted : let o := atWork .promote 2; let s := { live with objs := [(0, o)] }
    look s.objs 0 = some o ∧ o.engine < 16 ∧ s.fenced 0 = false ∧ 0 ∈ o.live ∧ 0 ∉ o.todo ∧ o.grans[0]? = some ⟨.promoting, 0, 0, 4⟩
      ∧ o.queue = [] ∧ s.ports = [] ∧ s.owed = [] ∧ 0 < s.model.dies ∧ o.work = some .promote ∧ realAddr s (farAddr 0 0) ∧ realAddr s (nearAddr 0 4) := by
  unfold realAddr; decide +kernel
theorem witness_zeroed : let s0 := { live with objs := [(0, atWork .zero 0)] }; let s1 := { live with objs := [(0, atWork .zero 3)] }
    look s0.objs 0 = some (atWork .zero 0) ∧ look s1.objs 0 = some (atWork .zero 3) ∧ realAddr s0 (nearAddr 0 4) ∧ realAddr s1 (farAddr 0 0) := by
  unfold realAddr; decide +kernel

/-! Errors. -/

theorem witness_scrub_paused : let s := { up with fw := { up.fw with stopping := true } }
    s.fw.stopping = true ∧ s.fenced 0 = false ∧ 0 < s.model.dies := by decide +kernel
theorem witness_scrub : up.fenced 0 = false ∧ up.fw.stopping = false ∧ (up.die 0).dramOn = true ∧ clearing up 0 0 = false ∧ clearing up 0 1 = false
    ∧ get false up.bad (scrubLine 0 false 0 ((up.die 0).scrubbed false 0)) = false
    ∧ get false up.bad (scrubLine 0 true 2 ((up.die 0).scrubbed true 2)) = false ∧ (up.die 0).reports.length < 256 ∧ up.latent = [] := by decide +kernel
/-- The entry of a bank whose spare is being filled. -/
def eBank : MapEntry := ⟨5, 0, 0, 0, 2, 7, 0⟩
theorem witness_bank : let s := { up with maps := [eBank], clusters := [(2, { Cluster.init with copying := [7] })] }
    (s.cluster 0 2).copying.contains 7 = true
      ∧ s.maps.find? (fun e => e.kind == 5 && e.die == 0 && e.unit == 2 && e.sub == 7 && e.st == 0) = some eBank
      ∧ s.latent = [] ∧ s.maps.length ≤ 2048 := by decide +kernel

/-! Trellis images, with model KRK-2. -/

def imgBase : Bytes := pack 400 ([(0, 4, 0x534C5254), (4, 1, 1), (7, 1, 1), (0xC, 4, 400),
  (0x80, 2, 1), (0x82, 2, 1), (0x84, 4, 0x100), (0x88, 4, 16), (0x90, 2, 2), (0x92, 2, 16), (0x94, 4, 0x110), (0x98, 4, 128),
  (0xA0, 2, 4), (0xA4, 4, 0x190), (0xB0, 2, 7), (0xB4, 4, 0x190), (0x102, 1, 1)]
  ++ (List.range 8).flatMap (fun k => [(0x111 + 8 * k, 1, k), (0x112 + 8 * k, 1, 1), (0x150 + 8 * k, 1, 1), (0x151 + 8 * k, 1, k)]))
/-- An image from its parts. -/
def img (d : Bytes) : Bytes := imgBase.take 0x20 ++ (List.range 64).map (fun i => nth 0 d i) ++ imgBase.drop 0x60
def digest0 : Bytes := fit 64 (Config.shake (slice imgBase 0 0x20 ++ slice imgBase 0x80 (400 - 0x80)) 512)
def image0 : Bytes := img digest0
def bare : State := { up with model := .krk2 }

theorem image0_head : slice image0 0 0x20 = slice imgBase 0 0x20 := by decide +kernel
theorem image0_body : slice image0 0x80 (400 - 0x80) = slice imgBase 0x80 (400 - 0x80) := by decide +kernel
theorem image0_held : slice image0 0x20 64 = (List.range 64).map (fun i => nth 0 digest0 i) := by
  have h : (imgBase.take 0x20).length = 32 := by decide +kernel
  simp [slice, image0, img, List.drop_append, List.take_append, h]

theorem image0_digest : slice image0 0x20 64 = imageDigest image0 := by
  have hs : signed image0 = false := by decide +kernel
  have hl : field image0 0xC 4 = 400 := by decide +kernel
  have hd : (List.range 64).map (fun i => nth 0 digest0 i) = digest0 := by
    have := spelled_eq digest0
    rwa [digest0, fit_length] at this
  rw [image0_held, hd]
  simp only [imageDigest, hs, hl, Bool.false_eq_true, if_false, image0_head, image0_body, digest0]

theorem witness_image_ok : let s := asking bare (req 0x0301 image0)
    asked s 0 0x0301 (req 0x0301 image0) ∧ (validate s image0).1 = 0 ∧ scopeOf image0 = 0 := by
  have u : unitRuns (asking bare (req 0x0301 image0)) (req 0x0301 image0) = true := by decide +kernel
  refine ⟨⟨by simp [reqAt, asking, req]; exact u, by simp [asking, req]⟩, ?_, by decide +kernel⟩
  unfold validate
  have a : formAt image0 = none := by decide +kernel
  have b : field image0 7 1 = bare.model.code := by decide +kernel
  have c : signed image0 = false := by decide +kernel
  have d : limitAt (asking bare (req 0x0301 image0)) image0 = none := by decide +kernel
  have e : coppiceAt (asking bare (req 0x0301 image0)) image0 = none := by decide +kernel
  have f : scopeAt (asking bare (req 0x0301 image0)) image0 = none := by decide +kernel
  have g : applyBusy (asking bare (req 0x0301 image0)) image0 = false := by decide +kernel
  have h : (asking bare (req 0x0301 image0)).norView.signed = false := by decide +kernel
  have m : (asking bare (req 0x0301 image0)).model.code = bare.model.code := rfl
  simp [a, b, c, d, e, f, g, h, m, image0_digest]
theorem witness_image_bad : let s := asking bare (req 0x0301 (zeros 256))
    asked s 0 0x0301 (req 0x0301 (zeros 256)) ∧ (validate s (zeros 256)).1 = 1 := by unfold asked; decide +kernel
theorem witness_abandon : let s := { live with
      parts := [(0, { Part.init with st := .inClearing })], trellis := { live.trellis with applying := some (0, 0, 1, []) } }
    s.trellis.applying = some (0, 0, 1, []) ∧ affected s 0 0 1 = [0] ∧ (s.part 0).st = .inClearing ∧ s.due = [] := by decide +kernel

/-! Requests about contexts. -/

/-- Context 0 STOPPED, its partition free. -/
def stopped : State := { live with
  parts := [(0, Part.init)], cores := [], ctxs := [(0, { live.ctx 0 with st := .stopped })] }
def rSched (mode : Nat) : Taken := req 0x0202 (pack 8 [(4, 1, mode)])
theorem witness_schedule : let s := asking stopped (rSched 1)
    asked s 0 0x0202 (rSched 1) ∧ s.hasPart 0 = true ∧ (look s.ctxs 0).isSome = true ∧ s.fenced 0 = false ∧ (s.ctx 0).st = .stopped
      ∧ (s.ctx 0).part = 0 ∧ (s.part 0).st = .inService ∧ (s.part 0).leaving = false := by unfold asked; decide +kernel
/-- The same, with another context resident, which the switch asks to quiesce. -/
theorem witness_schedule_quiesce :
    let s := asking { live with ctxs := [(0, live.ctx 0), (1, { live.ctx 0 with st := .stopped })] } (req 0x0202 (pack 8 [(2, 2, 1), (4, 1, 1)]))
    (s.ctx 1).st = .stopped ∧ (s.ctx 1).part = 0 ∧ (s.part 0).resident = some 0 ∧ 0 ∈ s.partCores 0 := by decide +kernel
def rSet : Taken := req 0x0203 (pack 8 [(2, 1, 1), (4, 4, 2500)])
theorem witness_set : let s := asking live rSet
    asked s 0 0x0203 rSet ∧ s.ctxNamed 0 = true ∧ stallOf (field rSet.fields 4 4) = some 2500 ∧ stallOf 25000000 = some 25000000
      ∧ stallOf 0 = some 50000 ∧ stallOf 2499 = none ∧ stallOf 25000001 = none := by unfold asked; decide +kernel
def rCtxQuery : Taken := req 0x0204 (pack 16 [])
theorem witness_ctx_query : let s := asking live rCtxQuery
    asked s 0 0x0204 rCtxQuery ∧ look s.ctxs 0 = some (live.ctx 0) ∧ s.fenced 0 = false := by unfold asked; decide +kernel
theorem witness_ctx_query_no_args : ∀ off k, argsAt (asking live rCtxQuery) rCtxQuery.sess off k = none := fun _ _ => rfl
def rRelease : Taken := req 0x0206 (pack 8 [(3, 1, 1)])
theorem witness_release : let s := (asking live rRelease).onEng 0 .ope (fun e => { e with held := true })
    asked s 0 0x0206 rRelease ∧ (s.part 0).phys[0]? = some 0 ∧ (s.ctx 0).st = .resident ∧ (s.part 0).resident = some 0
      ∧ bit (field rRelease.fields 3 1) 0 = true ∧ (s.core 0).cx.ope.held = true := by unfold asked; decide +kernel
def rDestroy : Taken := req 0x0205 (pack 8 [])
theorem witness_destroy : let s := asking live rDestroy
    asked s 0 0x0205 rDestroy ∧ look s.ctxs 0 = some (live.ctx 0) ∧ (live.ctx 0).st ≠ .free ∧ (live.ctx 0).st ≠ .closing ∧ (live.ctx 0).colls = [] ∧ switching s 0 = false := by
  unfold asked; decide +kernel
def rAbort : Taken := req 0x0207 (pack 8 [])
theorem witness_abort : let s := asking stopped rAbort
    asked s 0 0x0207 rAbort ∧ look s.ctxs 0 = some (stopped.ctx 0) ∧ (stopped.ctx 0).st = .stopped
      ∧ (s.part (stopped.ctx 0).part).resident ≠ some 0 ∧ (stopped.ctx 0).qps = [] ∧ (stopped.ctx 0).colls = [] := by unfold asked; decide +kernel
/-- CTX_CREATE: three granules of NEAR_PIN object 1 hold the counters, the diagnostic record, and the other tables; object
2 is the save object. -/
def rCtxCreate : Taken := req 0x0201 (pack 144 [(24, 8, 0x20000), (32, 8, 0x21000), (40, 4, 1), (48, 8, 0), (56, 8, 0x22000), (72, 8, 0x10000),
  (80, 4, 2), (112, 8, 0), (120, 4, 3), (128, 4, 1), (132, 1, 0x83)])
def sCreate : State := asking { up with
  parts := [(0, Part.init)]
  objs := [(1, { obj0 with granules := 3, st := 2, grans := (List.range 3).map (fun i => ⟨.nearOnly, 0, 0, i⟩) }),
    (2, { obj0 with granules := 136, st := 2, grans := (List.range 136).map (fun i => ⟨.nearOnly, 0, 0, 3 + i⟩) })] } rCtxCreate
def wCreate : Window := ⟨0, 3, 0, 1, true, true, false⟩
theorem create_windows : argWindows (rCtxCreate.fields.drop 112) = [wCreate] := by decide +kernel
/-- What CTX_CREATE takes from the partition and the arguments. -/
def xCreate : Ctx :=
  { argCtx rCtxCreate.fields rCtxCreate.sess (b2n (sCreate.part 0).duo) (sCreate.part 0).clusters with stream := (sCreate.part 0).stream }
theorem witness_ctx_create : asked sCreate 0 0x0201 rCtxCreate ∧ sCreate.hasPart 0 = true ∧ (sCreate.part 0).st ≠ .fenced
    ∧ (stallOf (field rCtxCreate.fields 16 4)).isSome = true ∧ xCreate.descLen = 1 ∧ windowOk sCreate wCreate = true
    ∧ (sCreate.part 0).clusters = 1 ∧ saveOk sCreate 0 0 (nth 0 xCreate.save 0) = true ∧ xCreate.ringVa = 0
    ∧ badTable (addWindow (sCreate.setCtx 0 xCreate) 0 wCreate) 0 0 xCreate.ringVa = none := by unfold asked; decide +kernel
theorem witness_ctx_create_id : leastFree sCreate.ctxs (1024 * (0 / 8)) 1024 = some 0 := by decide +kernel
theorem witness_ctx_create_areas :
    ∀ a ∈ [(xCreate.cmdRings, 512), (xCreate.descTable, 64), (xCreate.counters, 65536), (xCreate.barVa, 1024), (xCreate.diag, 65536)],
      inNear sCreate [wCreate] a.1 a.2 = true := by decide +kernel
theorem witness_ctx_create_sorted : ∀ j v w, (argWindows (rCtxCreate.fields.drop 112))[j]? = some v →
    (argWindows (rCtxCreate.fields.drop 112))[j + 1]? = some w → v.base + v.granules * 65536 ≤ w.base := by
  intro j v w _ h
  rw [create_windows] at h
  simp at h

/-! Switches and teardowns. -/

def sSwitch : State := (staffed stopped).setPart 0 { Part.init with sw := some ⟨some 0, 0, none, false⟩ }
theorem witness_switch : sSwitch.hasPart 0 = true ∧ (sSwitch.part 0).st = .inService ∧ (sSwitch.part 0).sw = some ⟨some 0, 0, none, false⟩
    ∧ (sSwitch.part 0).resident = none ∧ (sSwitch.ctx 0).st = .stopped ∧ roleUp sSwitch 0 0 = true ∧ partHalted sSwitch 0 = false
    ∧ (switchIn (sSwitch.setPart 0 { sSwitch.part 0 with sw := none }) 0 0 true).1 = 0 := by decide +kernel
theorem witness_no_switch : live.hasPart (8 * 0 + 0) = true ∧ (live.part 0).sw = none := by decide +kernel
/-- A spare-in that has waited 60 s; the partition's cores are no longer on the map, so nothing has to be saved. -/
def sForced : State := onD { staffed live with parts := [(0, { Part.init with resident := some 0, spareDue := some 0 })] } (fun d => { d with time := 1500000000 })
theorem witness_forced : (sForced.part 0).spareDue = some 0 ∧ (sForced.part 0).resident = some 0 ∧ (sForced.part 0).st = .inService
    ∧ 0 + 1500000000 ≤ (sForced.die 0).time ∧ (sForced.ctx 0).st = .resident ∧ partHalted sForced 0 = false
    ∧ roleUp (drainOps (sForced.setPart 0 { sForced.part 0 with forced := true }) 0 0) 0 0 = true ∧ drained (drainOps (sForced.setPart 0 { sForced.part 0 with forced := true }) 0 0) 0 0 = true
    ∧ ((switchOut (drainOps (sForced.setPart 0 { sForced.part 0 with forced := true }) 0 0) 0 0).ctx 0).st = .stopped
    ∧ (switchIn (switchOut (drainOps (sForced.setPart 0 { sForced.part 0 with forced := true }) 0 0) 0 0) 0 0 true).1 = 0 := by decide +kernel
/-- A context whose lease ran out 5 s ago. -/
def sLease : State :=
  let s := onD (staffed live) (fun d => { d with time := 125000000 })
  (s.setCtx 0 { s.ctx 0 with leaseQuiesce := some 0 }).setPart 0 { s.part 0 with sw := some ⟨none, 1, none, false⟩ }
theorem witness_lease : (sLease.ctx 0).leaseQuiesce = some 0 ∧ (sLease.ctx 0).st = .resident ∧ (sLease.part 0).resident = some 0
    ∧ 0 + 125000000 ≤ (sLease.die sLease.fw.bootDie).time ∧ (sLease.part 0).sw = some ⟨none, 1, none, false⟩
    ∧ (let b := (sLease.partCores 0).foldl (fun (s : State) k => s.onCC k (fun x => { x with boundary := true })) sLease
      let s1 := drainOps (b.setPart 0 { b.part 0 with forced := true }) 0 0
      drained s1 0 0 = true ∧ roleUp s1 0 0 = true ∧ partHalted sLease 0 = false ∧ ∀ k ∈ sLease.partCores 0, ∀ e ∈ [(b.core k).cx.ope, (b.core k).cx.ve, (b.core k).cx.te],
        ∀ m ∈ e.q, m.st = .begun → blocks m.word = true) := by decide +kernel
/-- A context CLOSING, not resident, with nothing mapped or pinned; a request of its own waits. -/
def sClosing (ops : List TeOp) : State :=
  let s := onD (asking stopped rDestroy) (fun d => { d with time := 5000 })
  (s.setCtx 0 { s.ctx 0 with st := .closing, windows := [], uid := some 5 }).onHw 0 (fun h => { h with ops := ops })
theorem witness_teardown : let s := sClosing []
    (s.ctx 0).st = .closing ∧ (s.ctx 0).pins = [] ∧ (s.ctx 0).windows = [] ∧ (s.part 0).resident ≠ some 0 ∧ outstanding s 0 = 0
      ∧ s.taken.find? (fun u => u.uid == rDestroy.uid) = some rDestroy ∧ (s.ctx 0).uid = some rDestroy.uid := by decide +kernel
theorem witness_teardown_late : let s := sClosing [⟨0, 0, 0, .index 0, .made, false, none, [], false, false⟩]
    0 < outstanding s 0 ∧ s.fenced (0 / 1024) = false ∧ underL2 s 0 = false ∧ (s.ctx 0).closedAt + 5000 ≤ (s.die 0).time ∧ rackUse s 0 = [] ∧ portUse s 0 = []
      ∧ s.ports = [] ∧ (s.ctx 0).escalated = false ∧ (s.ctx 0).evicted = false := by
  decide +kernel

/-! ### Ports (chapter 12) -/

theorem find_first {n : Nat} (p : Nat → Bool) (h : 0 < n) (hp : p 0 = true) : (List.range n).find? p = some 0 := by
  rw [List.find?_range_eq_some]
  exact ⟨hp, by simpa using h, fun j hj => absurd hj (Nat.not_lt_zero j)⟩

/-- The firmware in service; port 0 up, with an IPv4 and an IPv6 address. -/
def a4 : Nat := 0xFFFF0A000001
def a6 : Nat := 0x20010DB8000000000000000000000001
def port0 : Port := { Port.init with up := true, role := 3, v4 := some (a4, 24, 0xFFFF0A0000FE), v6 := some (a6, 64, 0) }
def serving (s : State) : State := { s with fw := { s.fw with inService := true } }
def onPort0 (x : Port) : State := (serving live).setPort 0 x

theorem witness_trying : let x := { port0 with up := false, trying := true }
    (onPort0 x).port 0 = x ∧ x.trying = true ∧ portOn (onPort0 x) 0 = true ∧ x.rate < 2 := by decide +kernel
theorem witness_cycle : let x := { port0 with up := false, trying := true, rate := 2 }
    x.trying = true ∧ portOn (onPort0 x) 0 = true ∧ 2 ≤ x.rate ∧ ((onPort0 x).die (portDie 0)).reports.length < 256 := by decide +kernel
theorem witness_up : ((onPort0 port0).port 0).up = true ∧ port4 (onPort0 port0) 0 = some (BitVec.ofNat 128 a4).toNat
    ∧ port4 (onPort0 port0) 0 ≠ some (1#128).toNat ∧ port0.clear 0 = true
    ∧ { port0 with paused := [(port0.prio 0, 9)] }.clear 0 = false := by decide +kernel
theorem witness_own6 : ownAddr (onPort0 port0) 0 (BitVec.ofNat 128 a6).toNat = true ∧ v4Mapped (BitVec.ofNat 128 a6).toNat = false := by
  have h : port6 (onPort0 port0) 0 = some (BitVec.ofNat 128 a6).toNat := by decide +kernel
  exact ⟨by simp [ownAddr, h], by decide +kernel⟩
theorem link_local_large (p : Nat) : 0xFE80 * 2 ^ 112 ≤ linkLocal p := by
  unfold linkLocal
  exact Nat.le_add_right _ _
theorem foreign (s : State) (p a : Nat) (h : a < 0xFE80 * 2 ^ 112) (h4 : port4 s p ≠ some a) (h6 : port6 s p ≠ some a) :
    ownAddr s p a = false := by
  have := link_local_large p
  have hl : a ≠ linkLocal p := by omega
  simp [ownAddr, hl, h4, h6]
theorem witness_foreign : ownAddr (onPort0 port0) 0 (1#128).toNat = false :=
  foreign _ _ _ (by decide) (by decide +kernel) (by decide +kernel)
theorem witness_echo : echoLen a4 (zeros 8972) ≤ 9000 ∧ 9000 < echoLen a4 (zeros 8973) ∧ echoLen a6 (zeros 8952) ≤ 9000
    ∧ 9000 < echoLen a6 (zeros 8953) := by
  have h : ∀ a n, echoLen a (zeros n) = n + (if v4Mapped a then 28 else 48) := by intro a n; simp [echoLen, zeros]
  simp only [h]
  decide
/-- A frame, and its departures. -/
def frame0 : Sys2Proof.Frame := ⟨512, 0, arr0, true, false, none, 0⟩
/-- A frame protected under a packet number; and a port whose last one received was 5. -/
def sealed (ok : Bool) (n : Nat) : Arrival := ⟨0, 0, 0, true, ok, n⟩
def port1 : Port := { port0 with macsec := some ⟨[], [], 0, 5⟩ }
theorem witness_gates : port1.gate (sealed true 6) false = .take ∧ port1.gate (sealed true 5) false = .replay
    ∧ port1.gate (sealed false 6) true = .icv ∧ port1.gate arr0 false = .icv ∧ port1.gate arr0 true = .take
    ∧ port0.gate (sealed true 6) true = .unkeyed ∧ port0.gate arr0 false = .take ∧ ((onPort0 port1).port 0).up = true := by decide +kernel
/-- The port knows its neighbour. -/
theorem witness_knows : let x := { port0 with neigh := [(a4 + 1, 0)] }
    look x.neigh (x.hop (BitVec.ofNat 128 (a4 + 1)).toNat) = some arr0.mac.toNat
    ∧ ¬ look port0.neigh (port0.hop (BitVec.ofNat 128 (a4 + 1)).toNat) = some arr0.mac.toNat := by decide +kernel
theorem witness_frames :
    (9216 < { frame0 with len := 9217 }.len ∧ 1 < { frame0 with tags := 2 }.tags)
    ∧ port1.gate frame0.arr frame0.exempt ≠ .take
    ∧ (port0.gate frame0.arr frame0.exempt = .take ∧ { frame0 with supported := false }.supported = false ∧ { frame0 with len := 63 }.len < 64)
    ∧ (frame0.supported = true ∧ 64 ≤ frame0.len ∧ port0.lossless 0 = false) := by decide +kernel
/-- A request held back whose data fill the share of priority 0. -/
def heldUp (d : Bytes) : Port := { port0 with qps := [(3, { qp0 with held := [(0, ⟨3, 7, true, false, false, none, 0, 0, 0, 0, 0, d, [], arr0⟩)] })] }
theorem witness_full : 2097152 < (heldUp (zeros 2097152)).occupied frame0.prio + frame0.len := by
  have h : ∀ d, (heldUp d).occupied 0 = d.length + 0 + 0 := by intro d; simp [heldUp, Port.occupied, RocePkt.prio, port0, Port.init]
  have l : frame0.len = 512 := rfl
  rw [show frame0.prio = 0 from rfl, h, l, zeros, List.length_replicate]
  decide
theorem witness_paused : let x := { port0 with xoff := [2], paused := [(5, 9)] }
    x.xoff.contains 2 = true ∧ get 0 x.paused 5 ≠ 0 := by decide

/-! Inbound requests: a key opens the window of context 0. -/

def key0 : Key := ⟨0, .ctx 0, 0, 0x20000, true, true, true, true⟩
def keyed (s : State) : State := { paired s with keys := [(0, key0)] }
def pkt (f : RocePkt → RocePkt) : RocePkt := f ⟨3, 7, true, false, false, none, 0, 0, 0x1000, 0, 0, [], [], arr0⟩
theorem witness_inbound : let s := keyed live
    (s.port 0).up = true ∧ s.qp 0 9 = none ∧ s.qp 0 3 = some qp0 ∧ qp0.error = false ∧ qp0.psnRecv < 2 ^ 24 ∧ (s.port 0).clear 2 = true
    ∧ (s.port 0).gate (pkt id).arr false = .take ∧ look (s.port 0).neigh ((s.port 0).hop qp0.remoteIp) = some (pkt id).arr.mac.toNat
    ∧ s.latent = [] := by decide +kernel
theorem witness_gap : (pkt fun k => { k with psn := 7 + 2 ^ 23 - 1 }).psn = (qp0.psnRecv + (2 ^ 23 - 1)) % 2 ^ 24
    ∧ (pkt fun k => { k with psn := 6 }).psn = ({ qp0 with psnRecv := 2 ^ 24 - 1 }.psnRecv + 7) % 2 ^ 24 := by decide
theorem witness_inbound_key : let k := pkt fun k => { k with data := zeros 16, va := 0x1FFF8 }
    keyOk (keyed live) qp0.owner qp0.mid k.key k.va k.data.length .write = false ∧ k.psn = qp0.psnRecv := by decide +kernel
theorem witness_inbound_write : let s := keyed live; let k := pkt fun k => { k with data := [1, 2, 3], va := 0x103D }
    qp0.held = [] ∧ 0 < k.data.length ∧ keyOwner s k.key = .ctx 0 ∧ realAddr s 0x103D ∧ k.va % 64 + k.data.length ≤ 64 ∧ k.mask = []
      ∧ keyOk s qp0.owner qp0.mid k.key k.va k.data.length .write = true ∧ locate s 0 k.va .write false = .at_ 0x103D 0 0
      ∧ needsReset s (.ctx 0) k.va k.data.length .write = false := by unfold realAddr; decide +kernel
theorem witness_inbound_read : let s := keyed live; let k := pkt fun k => { k with len := 64 }
    0 < k.len ∧ k.va % 64 + k.len ≤ 64 ∧ keyOk s qp0.owner false k.key k.va k.len .read = true ∧ qp0.mtu ≠ 0 ∧ k.len ≤ qp0.mtu
      ∧ locate s 0 k.va .read false = .at_ 0x1000 0 0 ∧ needsReset s (.ctx 0) k.va k.len .read = false := by decide +kernel
theorem witness_inbound_add : let s := keyed live; let k := pkt fun k => { k with add := 5 }
    k.va % 8 = 0 ∧ keyOk s qp0.owner false k.key k.va 8 .atomic = true ∧ locate s 0 k.va .atomic false = .at_ 0x1000 0 0
      ∧ needsReset s (.ctx 0) k.va 8 .atomic = false := by decide +kernel

theorem witness_inbound_error : { qp0 with error := true }.error = true ∧ { qp0 with error := true }.closing (keyed live) = false
    ∧ (let s := (keyed live).setCtx 0 { live.ctx 0 with st := .closing }; qp0.closing s = true) ∧ qp0.mid = false := by decide +kernel

/-! A queue pair as requester: two packets on the wire. -/

def sentPkt (psn : Nat) : SentPkt := ⟨psn, 0, 4, false, true, false, 0x9000, 0x5555, [1, 2], [], none⟩
def qpSent : Qp := { qp0 with unacked := [sentPkt 5, sentPkt 6] }
def requester (q : Qp) : State := let s := paired live; s.setPort 0 { s.port 0 with qps := [(3, q)] }
theorem witness_requester : (requester qpSent).qp 0 3 = some qpSent ∧ (requester qpSent).trellis.applying = none
    ∧ qpSent.unacked.any SentPkt.onWire = true ∧ 0 < qpSent.retriesLeft ∧ qpSent.error = false ∧ qpSent.rnrWait = false
    ∧ ((requester qpSent).port 0).clear 2 = true ∧ qpSent.rnr = 7 ∧ qpSent.lastCut = none ∧ qpSent.rateSince = none ∧ qpSent.lastCnpTx = none
    ∧ ((requester qpSent).port 0).clear 1 = true ∧ ((requester qpSent).port 0).up = true ∧ ((requester qpSent).port 0).gate arr0 false = .take
    ∧ look ((requester qpSent).port 0).neigh (((requester qpSent).port 0).hop qpSent.remoteIp) = some arr0.mac.toNat := by decide +kernel
theorem witness_rnr : { qpSent with rnrWait := true }.rnrWait = true ∧ { qpSent with rnrWait := true, rnr := 3, rnrLeft := 0 }.rnr ≠ 7
    ∧ { qpSent with lastCut := some 100 }.lastCut = some 100 ∧ 101 < 100 + ((requester qpSent).port 0).holdUs := by decide +kernel
theorem witness_nak : qpSent.unacked.any (fun y => y.onWire && decide ((((5 + 2 ^ 24 - 1) % 2 ^ 24) + 2 ^ 24 - y.psn) % 2 ^ 24 < 2 ^ 23)) = false
    ∧ { qpSent with retriesLeft := 0 }.retriesLeft = 0 ∧ NakKind.access ≠ .seq ∧ NakKind.access ≠ .rnr := by decide

/-! Requests. -/

def rQp : Taken := req 0x0402 (pack 64 [(4, 2, 5), (16, 8, a4 + 1), (32, 4, 9), (36, 4, 7), (40, 4, 1024), (48, 4, 7), (52, 4, 7)])
theorem witness_qp_create : let s := asking (onPort0 port0) rQp; let f := field rQp.fields
    asked s 0 0x0402 rQp ∧ s.ctxNamed 0 = true ∧ portFitted s 0 = true ∧ (s.port 0).role = 3 ∧ f 4 2 < 4096 ∧ f 45 1 ≤ 31 ∧ f 48 4 ≤ 7
      ∧ f 52 4 ≤ 7 ∧ f 44 1 ≤ 1 ∧ f 32 4 < 2 ^ 24 ∧ f 36 4 < 2 ^ 24 ∧ f 40 4 ∈ [1024, 2048, 4096] ∧ look (s.ctx 0).qps (f 4 2) = none := by
  unfold asked; decide +kernel
theorem witness_free_qp : freeQp (asking (onPort0 port0) rQp) 0 = some 0 := find_first _ (by decide) rfl
def rQpEnd : Taken := req 0x0403 (pack 4 [(2, 2, 2)])
theorem witness_qp_destroy : let s := asking (paired live) rQpEnd
    asked s 0 0x0403 rQpEnd ∧ s.ctxNamed 0 = true ∧ look (s.ctx 0).qps (field rQpEnd.fields 2 2) = some (0, 3) := by unfold asked; decide +kernel
def rKey : Taken := req 0x0404 (pack 24 [(8, 8, 0x1000), (16, 4, 64), (20, 1, 3)])
theorem witness_key_create : let s := asking live rKey; let f := field rKey.fields
    asked s 0 0x0404 rKey ∧ s.ctxNamed 0 = true ∧ f 16 4 ≠ 0 ∧ f 16 4 % 64 = 0 ∧ f 8 8 + f 16 4 ≤ 2 ^ 52 := by unfold asked; decide +kernel
theorem witness_free_key : freeKey (asking live rKey) = some 0 := find_first _ (by decide) rfl
def rKeyEnd : Taken := req 0x0405 (pack 4 [])
theorem witness_key_destroy : let s := asking (keyed live) rKeyEnd
    asked s 0 0x0405 rKeyEnd ∧ look s.keys (field rKeyEnd.fields 0 4 % 65536) = some key0 ∧ key0.live = true
      ∧ key0.gen = field rKeyEnd.fields 0 4 / 65536 ∧ key0.owner = .ctx 0 := by unfold asked; decide +kernel
def rVlan : Taken := req 0x0401 (pack 80 [(1, 1, 4), (4, 2, 4094)])
def rV4 : Taken := req 0x0401 (pack 80 [(1, 1, 1), (2, 1, 24), (16, 8, a4), (32, 8, a4 + 5)])
theorem witness_port_config : let x := { port0 with v4 := none, v6 := none }
    asked (asking (onPort0 x) rVlan) 0 0x0401 rVlan ∧ asked (asking (onPort0 x) rV4) 0 0x0401 rV4 ∧ portFitted (onPort0 x) 0 = true ∧ x.role ≠ 0
      ∧ field rVlan.fields 1 1 = 4 ∧ field rVlan.fields 4 2 = 4094 ∧ field rV4.fields 1 1 = 1 ∧ field rV4.fields 2 1 = 24
      ∧ samePrefix (field rV4.fields 16 16) (field rV4.fields 32 16) (96 + 24) 128 = true := by unfold asked; decide +kernel

/-! ### Sessions (chapter 12) -/

/-- A tag written as sixteen bytes, so that what stands around it can be read without its value. -/
def seal_ (master b : Bytes) : Bytes := (List.range 16).map (fun i => nth 0 (tagUnder master "H2D" b) i)

theorem seal_eq (master b : Bytes) : seal_ master b = tagUnder master "H2D" b := by
  have h := spelled_eq (tagUnder master "H2D" b)
  rwa [show (tagUnder master "H2D" b).length = 16 from fit_length _ _] at h

theorem untag_sealed (master b : Bytes) : (untag master (b ++ seal_ master b)).2 = true := by
  have hl : (b ++ seal_ master b).length - 16 = b.length := by simp [seal_]
  unfold untag
  simp only [hl]
  rw [List.take_left, List.drop_left, seal_eq]
  simp

def host : BitVec 128 := BitVec.ofNat 128 0xFFFF0A000063
/-- A REQUEST of session 1 under SEQ 1, and CLOSE. -/
def reqMsg (code : Nat) (fields : Bytes) : Datagram :=
  let b := sessHead 0x10 (36 + fields.length) 1 1 ++ natLe 2 code ++ zeros 2 ++ fields
  ⟨0, host, b ++ seal_ (zeros 32) b⟩
def closeMsg : Datagram := let b := sessHead 0x12 32 1 1; ⟨0, host, b ++ seal_ (zeros 32) b⟩

theorem sess_asked (s : State) (code : Nat) (fields : Bytes) (x : Session)
    (h : sessOf s (reqMsg code fields) 0x10 = some (1, x) ∧ field (reqMsg code fields).body 16 2 = code ∧ x.master = zeros 32
      ∧ 36 ≤ (reqMsg code fields).body.length ∧ x.seqIn < field (reqMsg code fields).body 12 4
      ∧ field (reqMsg code fields).body 12 4 ≠ x.lastReq ∧ (s.port 0).ready 0 x.ip = true ∧ s.norView.macsecReq = false) :
    sessAsked s (reqMsg code fields) code 1 x := by
  obtain ⟨h1, h2, h3, h4, h5, h6, h7, h8⟩ := h
  exact ⟨h1, h2, by rw [h3]; exact untag_sealed _ _, h4, h5, fun e => absurd e h6, h7, fun e => absurd e (by simp [h8])⟩

/-- An attempt to open a session, and a session of a role. -/
def try0 (mode : Nat) : Attempt := ⟨host.toNat, 0, mode, zeros 32, [], [1], [2], zeros 32, [], 0, none⟩
def sess0 (role : Nat) : Session := newSession (try0 0) (zeros 32) role 0 0
/-- The queue pair of the rings of session 1, and the key that opens their memory. -/
def qpOwn : Qp := { qp0 with owner := .rings 1 }
def ringsKeyed : State :=
  let s := { keyed live with keys := [(0, { key0 with owner := .rings 1, len := 0x1D0000 })], sess := [(1, sess0 0)] }
  s.setPort 0 { s.port 0 with qps := [(3, qpOwn)] }
theorem witness_inbound_rings : let s := ringsKeyed; let w := pkt fun k => { k with data := [1, 2, 3], va := 0x10000 }
    let r := pkt fun k => { k with len := 64, va := 0 }
    keyOwner s w.key = .rings 1 ∧ (look s.sess 1).isSome = true ∧ w.va < 0x10000000 ∧ qpOwn.owner ≠ .boot ∧ spaceOk w.va w.data.length true = true
      ∧ keyOk s qpOwn.owner qpOwn.mid w.key w.va w.data.length .write = true ∧ spaceOk r.va r.len false = true
      ∧ keyOk s qpOwn.owner false r.key r.va r.len .read = true := by decide +kernel
/-- Port 0, which knows the host's link address. -/
def hosted : Port := { port0 with neigh := [(host.toNat, 0)] }
/-- The boot responder listens on port 0; with a session of the boot role. -/
def booting : State := bare.setPort 0 { hosted with role := 0 }
def bootWith : State := { booting with sess := [(1, sess0 2)], nextSess := 2 }
/-- The firmware listens on port 0; with a session of a role, 0 or 1. -/
def served : State :=
  let s := serving (onD (bare.setPort 0 hosted) (fun d => { d with cellar := [(0, { CellarCore.init with st := 1, role := 3 })] }))
  { s with parts := [(0, Part.init)] }
def admin (role : Nat) : State := { served with sess := [(1, sess0 role)], nextSess := 2 }
def owner (a : Bool) (i : Nat) : OwnerKey := ⟨a, [], natLe 32 i⟩
def withOwners (s : State) (l : List OwnerKey) : State := { s with nor := { s.nor with owners := l } }

def hello (mode : Nat) : Datagram := ⟨0, host, fit 1268 (sessHead 1 1268 0 0 ++ natLe 2 0 ++ natLe 1 mode)⟩
theorem witness_hello : listens booting 0 = true ∧ msgOk (hello 3) 1 = true ∧ (hello 3).body.length = 1268 ∧ booting.attempts = []
    ∧ (booting.port 0).ready 0 host.toNat = true ∧ booting.fw.inService = false
    ∧ modeCode booting (field (hello 3).body 18 1) (slice (hello 3).body 52 32) = none ∧ limitCode booting (field (hello 3).body 18 1) = none := by decide +kernel
theorem witness_hello_served : listens served 0 = true ∧ served.fw.inService = true ∧ field (hello 0).body 16 2 = served.fw.image.major
    ∧ modeCode served (field (hello 0).body 18 1) (slice (hello 0).body 52 32) = some 2
    ∧ modeCode served (field (hello 2).body 18 1) (slice (hello 2).body 52 32) = none := by decide +kernel
/-- A proof of a boot session without authentication, under the key of its attempt. -/
def proof0 : Datagram :=
  let b := sessHead 4 32 0 0
  ⟨0, host, b ++ seal_ (Config.kmac (zeros 32) [] 256 cSession) b⟩
def trying (mode : Nat) : State := { booting with attempts := [try0 mode] }
theorem witness_proof : listens (trying 3) 0 = true ∧ msgOk proof0 4 = true ∧ 32 ≤ proof0.body.length ∧ ((trying 3).port 0).ready 0 host.toNat = true
    ∧ (trying 3).attempts.find? (fun a => a.ip == proof0.src.toNat) = some (try0 3) ∧ (try0 3).answer = none := by decide +kernel
theorem witness_proof_good : proofCode (trying 3) (try0 3) (Config.kmac (try0 3).ss (try0 3).th2 256 cSession) proof0.body = none := by
  have a : modeCode (trying 3) 3 (zeros 32) = none := by decide +kernel
  have b : limitCode (trying 3) 3 = none := by decide +kernel
  have c : (untag (Config.kmac (zeros 32) [] 256 cSession) proof0.body).2 = true := untag_sealed _ _
  have d : (untag (Config.kmac (zeros 32) [] 256 cSession) proof0.body).1.length = 16 := by decide +kernel
  simp [proofCode, try0, a, b, c, d]
theorem witness_proof_bad : proofCode (trying 0) (try0 0) [] proof0.body = some 2 := by decide +kernel
theorem witness_proof_late : let s := onD (trying 3) (fun d => { d with time := 125000000 })
    s.attempts.find? (fun a => a.ip == host.toNat && a.answer.isNone) = some (try0 3) ∧ (try0 3).since + 125000000 ≤ bootTime s
      ∧ (s.port (try0 3).port).ready 0 host.toNat = true := by decide +kernel
theorem witness_close : sessOf (admin 0) closeMsg 0x12 = some (1, sess0 0) ∧ (sess0 0).seqIn < field closeMsg.body 12 4 ∧ (sess0 0).role ≠ 2
    ∧ (sess0 0).unloaded = false ∧ (admin 0).reclaims.length < 16 ∧ ctxsOf (admin 0) 1 = [] := by decide +kernel
theorem witness_close_tag : (untag (sess0 0).master closeMsg.body).2 = true := untag_sealed _ _
theorem witness_close_unloaded : let x := { sess0 0 with unloaded := true }; let s := { admin 0 with sess := [(1, x)] }
    sessOf s closeMsg 0x12 = some (1, x) ∧ x.unloaded = true := by decide +kernel
theorem witness_lock : { served with lockUntil := some 0 }.lockUntil = some 0 ∧ 0 ≤ bootTime served := by decide +kernel
theorem witness_idle : let s := onD bootWith (fun d => { d with time := 250000000 })
    s.sess.find? (fun p => p.2.role == 2) = some (1, sess0 2) ∧ (sess0 2).lastMsg + 250000000 ≤ bootTime s := by decide +kernel

/-! Requests of a session. -/

theorem witness_admin_only : ∀ r ∈ adminRows, sessAsked (admin 0) (reqMsg r.1 []) r.1 1 (sess0 0) ∧ (sess0 0).role ≠ 1 := by
  have h : ∀ c ∈ adminRows.map Prod.fst, sessOf (admin 0) (reqMsg c []) 0x10 = some (1, sess0 0) ∧ field (reqMsg c []).body 16 2 = c
      ∧ (sess0 0).master = zeros 32 ∧ 36 ≤ (reqMsg c []).body.length ∧ (sess0 0).seqIn < field (reqMsg c []).body 12 4
      ∧ field (reqMsg c []).body 12 4 ≠ (sess0 0).lastReq ∧ ((admin 0).port 0).ready 0 (sess0 0).ip = true ∧ (admin 0).norView.macsecReq = false := by decide +kernel
  exact fun r hr => ⟨sess_asked _ _ _ _ (h r.1 (List.mem_map_of_mem hr)), by decide⟩
theorem witness_unknown : sessAsked (admin 0) (reqMsg 17 []) 17 1 (sess0 0) := sess_asked _ _ _ _ (by decide +kernel)
theorem witness_attest : sessAsked (admin 0) (reqMsg 1 (zeros 32)) 1 1 (sess0 0) := sess_asked _ _ _ _ (by decide +kernel)
theorem witness_owner_add : sessAsked (admin 1) (reqMsg 2 (zeros 1953)) 2 1 (sess0 1) ∧ (sess0 1).role = 1 ∧ norFree (admin 1) = true :=
  ⟨sess_asked _ _ _ _ (by decide +kernel), by decide +kernel⟩
theorem witness_owner_full : 8 ≤ (withOwners (admin 1) ((List.range 8).map (owner true))).nor.owners.length := by decide +kernel
def mRemove : Datagram := reqMsg 3 (natLe 32 1)
theorem witness_owner_remove : sessAsked (admin 1) mRemove 3 1 (sess0 1) ∧ ownerOf (admin 1) (natLe 32 1) = none :=
  ⟨sess_asked _ _ _ _ (by decide +kernel), by decide +kernel⟩
theorem witness_last_admin : let s := withOwners (admin 1) [owner true 1, owner false 2]
    sessAsked s mRemove 3 1 (sess0 1) ∧ ownerOf s (natLe 32 1) = some (owner true 1) ∧ (s.nor.owners.filter OwnerKey.admin).length ≤ 1 :=
  ⟨sess_asked _ _ _ _ (by decide +kernel), by decide +kernel⟩
theorem witness_removed : let s := withOwners (admin 1) [owner true 1, owner true 2]
    sessAsked s mRemove 3 1 (sess0 1) ∧ ownerOf s (natLe 32 1) = some (owner true 1) ∧ 1 < (s.nor.owners.filter OwnerKey.admin).length ∧ norFree s = true :=
  ⟨sess_asked _ _ _ _ (by decide +kernel), by decide +kernel⟩
theorem witness_policy : sessAsked (admin 1) (reqMsg 4 [5]) 4 1 (sess0 1) := sess_asked _ _ _ _ (by decide +kernel)
theorem witness_password : sessAsked (admin 1) (reqMsg 5 (zeros 40)) 5 1 (sess0 1) := sess_asked _ _ _ _ (by decide +kernel)
theorem witness_release_owner : sessAsked (admin 1) (reqMsg 6 []) 6 1 (sess0 1) := sess_asked _ _ _ _ (by decide +kernel)
theorem witness_boot_address : sessAsked (admin 1) (reqMsg 7 (fit 17 (natLe 6 a4) ++ [24])) 7 1 (sess0 1) := sess_asked _ _ _ _ (by decide +kernel)
theorem witness_nor_held : let s := { admin 1 with nor := { (admin 1).nor with ok := false } }
    norFree s = false ∧ sessAsked s (reqMsg 6 []) 6 1 (sess0 1) := ⟨by decide +kernel, sess_asked _ _ _ _ (by decide +kernel)⟩

theorem witness_macsec : sessAsked (admin 0) (reqMsg 8 (zeros 1)) 8 1 (sess0 0) ∧ portFitted (admin 0) 0 = true ∧ ((admin 0).port 0).role = 3 :=
  ⟨sess_asked _ _ _ _ (by decide +kernel), by decide +kernel⟩
theorem witness_boot_connect : sessAsked bootWith (reqMsg 9 (zeros 8)) 9 1 (sess0 2) ∧ (sess0 2).role = 2 ∧ bootWith.keys = []
    ∧ ∀ y ∈ bootWith.ports, y.2.qps = [] := ⟨sess_asked _ _ _ _ (by decide +kernel), by decide +kernel⟩
theorem witness_boot_free : freeQp bootWith 0 = some 0 ∧ freeKey bootWith = some 0 := ⟨find_first _ (by decide) rfl, find_first _ (by decide) rfl⟩
theorem witness_boot_go : sessAsked bootWith (reqMsg 10 (zeros 4)) 10 1 (sess0 2) := sess_asked _ _ _ _ (by decide +kernel)
def fOpen : Bytes := pack 32 [(4, 4, 9), (8, 4, 7), (12, 4, 4096), (16, 1, 6), (17, 1, 6), (18, 1, 6), (20, 4, 1), (24, 4, 1)]
theorem witness_rings_open : sessAsked (admin 0) (reqMsg 11 fOpen) 11 1 (sess0 0) ∧ (let f := field fOpen
    (sess0 0).role ≠ 2 ∧ (sess0 0).opened = false ∧ (sess0 0).rings = [] ∧ portFitted (admin 0) 0 = true ∧ ((admin 0).port 0).role = 3
      ∧ 6 ≤ f 16 1 ∧ f 16 1 ≤ f 17 1 ∧ f 17 1 ≤ 12 ∧ 6 ≤ f 18 1 ∧ f 18 1 ≤ 14 ∧ 0 < f 20 4 ∧ f 20 4 ≤ 2 ^ f 18 1 ∧ 0 < f 24 4
      ∧ f 24 4 ≤ 2 ^ f 17 1 ∧ f 28 4 ≤ 65535 ∧ f 12 4 ∈ [1024, 2048, 4096] ∧ (admin 0).keys = []) :=
  ⟨sess_asked _ _ _ _ (by decide +kernel), by decide +kernel⟩
theorem witness_rings_fields : ((reqMsg 11 fOpen).body.take ((reqMsg 11 fOpen).body.length - 16)).drop 20 = fOpen := by decide +kernel
theorem witness_rings_free : freeQp (admin 0) 0 = some 0 ∧ freeKey (admin 0) = some 0 := ⟨find_first _ (by decide) rfl, find_first _ (by decide) rfl⟩
theorem witness_reset_module : sessAsked (admin 1) (reqMsg 12 []) 12 1 (sess0 1) ∧ (admin 1).fw.update = none
    ∧ (bootWith.die bootWith.fw.bootDie).lame = false :=
  ⟨sess_asked _ _ _ _ (by decide +kernel), by decide +kernel⟩
theorem witness_dump_open : let s := { admin 1 with dump := { (admin 1).dump with size := 2, st := 1 } }
    sessAsked s (reqMsg 13 []) 13 1 (sess0 1) ∧ dumpThere s = true ∧ s.keys = [] := ⟨sess_asked _ _ _ _ (by decide +kernel), by decide +kernel⟩
theorem witness_dump_free : freeKey (admin 1) = some 0 := find_first _ (by decide) rfl
theorem witness_dump_release : sessAsked (admin 1) (reqMsg 14 []) 14 1 (sess0 1) := sess_asked _ _ _ _ (by decide +kernel)
theorem witness_dump_size : sessAsked (admin 1) (reqMsg 15 (natLe 4 16)) 15 1 (sess0 1) := sess_asked _ _ _ _ (by decide +kernel)
theorem witness_shutdown : sessAsked (admin 1) (reqMsg 16 []) 16 1 (sess0 1) ∧ (admin 1).ctxs = [] := ⟨sess_asked _ _ _ _ (by decide +kernel), by decide +kernel⟩
theorem witness_stopping : { served with fw := { served.fw with stopping := true } }.fw.stopping = true := rfl

/-! ### Host rings and cellar (chapter 14) -/

theorem bytes_of_set (a : Nat) (bs : Bytes) : Mem.bytes (Mem.setBytes [] a bs) a bs.length = bs := by
  apply List.ext_getElem
  · simp [Mem.bytes]
  · intro i h1 h2
    simp only [Mem.bytes, List.getElem_map, List.getElem_range, Mem.byte_setBytes]
    simp [h2]

theorem tag_length (x : Session) (m : Bytes) : (tagH x m).length = 16 := by unfold tagH fit; simp; omega

/-- A session with rings whose space holds bytes at one place. -/
def ringed (a : Nat) (bs : Bytes) : Session :=
  { sess0 0 with opened := true, rings := [(0, 0)], subProd := 3, subCons := 2, cplProd := 3, cplCons := 1, evtProd := 3, evtCons := 1, space := Mem.setBytes [] a bs }
/-- Bytes, and behind them their tag. -/
def tagged (b : Bytes) : Bytes := b ++ tagH (sess0 0) b
def slotBytes (v n : Nat) : Bytes := natLe 8 v ++ natLe 1 n ++ zeros 7

theorem tagged_reads (a : Nat) (b : Bytes) (h : b.length = 16) :
    let c := Mem.bytes (ringed a (tagged b)).space a 32
    c.take 16 = b ∧ slice c 16 16 = tagH (ringed a (tagged b)) (slice c 0 16) := by
  have l : (tagged b).length = 32 := by simp [tagged, h, tag_length]
  have e : Mem.bytes (ringed a (tagged b)).space a 32 = tagged b := by rw [← l]; exact bytes_of_set a _
  have e1 : (tagged b).take 16 = b := by rw [← h]; exact List.take_left
  have e2 : (tagged b).drop 16 = tagH (sess0 0) b := by rw [← h]; exact List.drop_left
  have t : tagH (ringed a (tagged b)) b = tagH (sess0 0) b := rfl
  simp only [e, slice, List.drop_zero, e1, e2, t]
  exact ⟨trivial, List.take_of_length_le (Nat.le_of_eq (tag_length _ _))⟩

theorem field_of_take (c b : Bytes) (h : c.take 16 = b) (off n : Nat) (hn : off + n ≤ 16) : field c off n = field b off n := by
  unfold field slice
  rw [← h, List.drop_take, List.take_take, Nat.min_eq_left (by omega)]

theorem slot_value (v n : Nat) (hv : field (slotBytes v n) 0 8 = v) (hn : field (slotBytes v n) 8 1 = n) :
    slotValue (ringed (0x1000 + 64 * n) (tagged (slotBytes v n))) n = (v, true) := by
  have h := tagged_reads (0x1000 + 64 * n) (slotBytes v n) (by simp [slotBytes, zeros, natLe])
  unfold slotValue
  simp only [field_of_take _ _ h.1 0 8 (by decide), field_of_take _ _ h.1 8 1 (by decide), hv, hn, h.2, beq_self_eq_true, Bool.and_self]

def withRings (x : Session) : State := { admin 0 with sess := [(1, x)] }
theorem withRings_served (a : Nat) (bs : Bytes) : Machine.served (withRings (ringed a bs)) 1 = some (ringed a bs) := by
  have h : roleUp (withRings (ringed a bs)) (withRings (ringed a bs)).fw.bootDie 3 = true := by
    have : roleUp (admin 0) (admin 0).fw.bootDie 3 = true := by decide +kernel
    exact this
  unfold Machine.served
  rw [if_pos h]
  rfl

theorem witness_doorbells : slotValue (ringed 0x1000 (tagged (slotBytes 66 0))) 0 = (66, true)
    ∧ slotValue (ringed 0x1040 (tagged (slotBytes 3 1))) 1 = (3, true) ∧ slotValue (ringed 0x1080 (tagged (slotBytes 2 2))) 2 = (2, true)
    ∧ slotValue (ringed 0x1000 (tagged (slotBytes 67 0))) 0 = (67, true) :=
  ⟨slot_value 66 0 rfl rfl, slot_value 3 1 rfl rfl, slot_value 2 2 rfl rfl, slot_value 67 0 rfl rfl⟩
theorem witness_doorbell_range : let x := sess0 0; x.subLog = 6 ∧ (ringed 0 []).subProd < 66 ∧ 66 ≤ (ringed 0 []).subCons + 2 ^ x.subLog
    ∧ ¬ 67 ≤ (ringed 0 []).subCons + 2 ^ x.subLog ∧ (ringed 0 []).evtCons < 2 ∧ 2 ≤ (ringed 0 []).evtProd ∧ (ringed 0 []).sinceOver = 0
    ∧ (ringed 0 []).evtProd - 2 < 2 ^ x.evtLog := by decide

/-- A submission at index 2, and its tag, or one that is none. -/
def subBytes (code : Nat) : Bytes := pack 48 [(0, 2, code), (4, 4, 77)]
def subTag (code : Nat) : Bytes := tagH (sess0 0) (subBytes code ++ natLe 1 0 ++ natLe 8 2)
def submit (code : Nat) (t : Bytes) : Session := ringed (0x10000 + 2 * 64) (subBytes code ++ t)
theorem ring_bytes (c : Bytes) (h : c.length = 64) : let x := ringed (0x10000 + 2 * 64) c
    Mem.bytes x.space (0x10000 + x.subCons % 2 ^ x.subLog * 64) 64 = c := by
  have e := bytes_of_set (0x10000 + 2 * 64) c
  rw [h] at e
  exact e
theorem submit_bytes (code : Nat) (t : Bytes) (h : (subBytes code).length = 48) (ht : t.length = 16) :
    Mem.bytes (submit code t).space (0x10000 + (submit code t).subCons % 2 ^ (submit code t).subLog * 64) 64 = subBytes code ++ t :=
  ring_bytes (subBytes code ++ t) (by simp [h, ht])
theorem submit_tag (code : Nat) (t : Bytes) (h : (subBytes code).length = 48) (ht : t.length = 16) :
    slice (subBytes code ++ t) 48 16 = t ∧ slice (subBytes code ++ t) 0 48 = subBytes code := by
  unfold slice
  constructor
  · rw [← h, List.drop_left, ← ht, List.take_of_length_le (by omega)]
  · rw [List.drop_zero, ← h, List.take_left]
theorem witness_submission : let x := submit 0x0101 (subTag 0x0101)
    let b := Mem.bytes x.space (0x10000 + x.subCons % 2 ^ x.subLog * 64) 64
    slice b 48 16 = tagH x (slice b 0 48 ++ natLe 1 0 ++ natLe 8 x.subCons) ∧ field b 0 2 = 0x0101 ∧ 0x0101 ∈ requestCodes
      ∧ inArgs 0x0101 = false ∧ x.subCons < x.subProd ∧ x.cplProd + x.cplHeld - x.cplCons < 2 ^ x.cplLog := by
  have h := submit_tag 0x0101 (subTag 0x0101) (by decide +kernel) (tag_length _ _)
  intro x b
  have e : b = subBytes 0x0101 ++ subTag 0x0101 := submit_bytes _ _ (by decide +kernel) (tag_length _ _)
  rw [e, h.1, h.2]
  exact ⟨rfl, by decide +kernel, by decide, by decide, by decide, by decide⟩
theorem witness_not_barred : (withRings (submit 0x0101 [])).barred (submit 0x0101 []) = false := by decide +kernel
theorem witness_submission_unknown : let x := submit 0x0999 (subTag 0x0999)
    let b := Mem.bytes x.space (0x10000 + x.subCons % 2 ^ x.subLog * 64) 64
    slice b 48 16 = tagH x (slice b 0 48 ++ natLe 1 0 ++ natLe 8 x.subCons) ∧ field b 0 2 = 0x0999 ∧ 0x0999 ∉ requestCodes ∧ inArgs 0x0999 = false := by
  have h := submit_tag 0x0999 (subTag 0x0999) (by decide +kernel) (tag_length _ _)
  intro x b
  have e : b = subBytes 0x0999 ++ subTag 0x0999 := submit_bytes _ _ (by decide +kernel) (tag_length _ _)
  rw [e, h.1, h.2]
  exact ⟨rfl, by decide +kernel, by decide, by decide⟩
theorem witness_submission_bad_tag : let t := (subTag 0x0101).map (fun v => v + 1); let x := submit 0x0101 t
    let b := Mem.bytes x.space (0x10000 + x.subCons % 2 ^ x.subLog * 64) 64
    slice b 48 16 ≠ tagH x (slice b 0 48 ++ natLe 1 0 ++ natLe 8 x.subCons) := by
  have ht : ((subTag 0x0101).map (fun v => v + 1)).length = 16 := by rw [List.length_map]; exact tag_length _ _
  have h := submit_tag 0x0101 _ (by decide +kernel) ht
  intro t x b
  have e : b = subBytes 0x0101 ++ t := submit_bytes _ _ (by decide +kernel) ht
  rw [e, h.1, h.2]
  change (subTag 0x0101).map (fun v => v + 1) ≠ subTag 0x0101
  intro q
  have hl : 0 < (subTag 0x0101).length := by rw [show (subTag 0x0101).length = 16 from tag_length _ _]; decide
  have hq := congrArg (fun l : Bytes => l[0]?) q
  simp only [List.getElem?_map, List.getElem?_eq_getElem hl, Option.map_some, Option.some.injEq] at hq
  bv_omega
theorem witness_no_uid : ∀ u ∈ (withRings (submit 0x0999 [])).taken, u.uid ≠ (withRings (submit 0x0999 [])).nextUid := by decide
theorem witness_lease_touch : let x := ringed 0x2000 (tagged (slotBytes 4 0)); let b := Mem.bytes x.space 0x2000 32
    slice b 16 16 = tagH x (slice b 0 16) ∧ x.count < field b 0 8 := by
  have h := tagged_reads 0x2000 (slotBytes 4 0) (by decide)
  refine ⟨h.2, ?_⟩
  rw [field_of_take _ _ h.1 0 8 (by decide)]
  decide
/-- Session 1 with a queue pair of its own on port 0. -/
def qpRings : Qp := { qp0 with owner := .rings 1, rnr := 7, unacked := [] }
theorem witness_nudge : let x := { ringed 0 [] with rose := [0] }; let s := (withRings x).setPort 0 { port0 with qps := [(0, qpRings)], neigh := [(port0.hop qpRings.remoteIp, 0)] }
    Machine.served s 1 = some x ∧ x.rings.find? (fun r => r.1 == 0) = some (0, 0) ∧ nudgeDue x 0 (bootTime s) = true ∧ look x.nudged 0 = none
      ∧ s.qp 0 0 = some qpRings ∧ qpRings.error = false ∧ qpRings.rnrWait = false ∧ (s.port 0).ready 2 qpRings.remoteIp = true := by decide +kernel
/-- Session 1 with two contexts, not touched for its lease. -/
def expiring : State := onD { admin 0 with
    ctxs := [(0, { Ctx.init with sess := 1, st := .stopped }), (1, { Ctx.init with sess := 1, st := .held })]
    keys := [(0, { key0 with owner := .rings 1 })] } (fun d => { d with time := 2000 * 25000 })
theorem witness_lease_expiry : look expiring.sess 1 = some (sess0 0) ∧ (sess0 0).expired = false
    ∧ (sess0 0).touched + (sess0 0).leaseMs * 25000 ≤ bootTime expiring ∧ expiring.reclaims.length < 16 ∧ ctxsOf expiring 1 = [0, 1] := by decide +kernel

/-! Requests of a session about itself. -/

def own (r : Taken) (o : Obj) : State := asking { admin 0 with objs := [(0, o)] } r
def rArgs : Taken := req 0x0601 (pack 4 [])
theorem witness_args : asked (own rArgs obj0) 0 0x0601 rArgs ∧ (own rArgs obj0).obj 0 = some obj0 ∧ obj0.policy ≠ 3
    ∧ look (own rArgs obj0).sess 1 = some (sess0 0) ∧ (own rArgs { obj0 with policy := 3 }).obj 0 = some { obj0 with policy := 3 } := by unfold asked; decide +kernel
def rLease (ms s : Nat) : Taken := req 0x0602 (pack 8 [(0, 4, ms), (4, 4, s)])
theorem witness_lease_set : asked (own (rLease 60000 3600) obj0) 0 0x0602 (rLease 60000 3600) ∧ field (rLease 100 0).fields 0 4 = 100
    ∧ field (rLease 60000 3600).fields 0 4 = 60000 ∧ field (rLease 60000 3600).fields 4 4 = 3600 ∧ field (rLease 99 0).fields 0 4 < 100 := by unfold asked; decide +kernel
def rTele : Taken := req 0x0701 (pack 8 [])
theorem witness_telemetry : asked (own rTele obj0) 0 0x0701 rTele := by unfold asked; decide +kernel
theorem witness_telemetry_no_args : ∀ off k, argsAt (own rTele obj0) rTele.sess off k = none := fun _ _ => rfl
def rUnload : Taken := req 0x0604 (pack 8 [])
theorem witness_unload : asked (own rUnload obj0) 0 0x0604 rUnload ∧ look (own rUnload obj0).sess 1 = some (sess0 0) ∧ ctxsOf (own rUnload obj0) 1 = []
    ∧ madeBusy (own rUnload obj0) 1 = false ∧ ctxsOf (asking expiring rUnload) 1 ≠ [] := by unfold asked; decide +kernel
/-- CTX_RECLAIM with token 9 of session 2, expired, of the same owner. -/
def rReclaim : Taken := req 0x0208 (pack 8 [(0, 8, 9)])
def reclaiming : State := asking { admin 0 with
    sess := [(1, sess0 0), (2, { sess0 0 with token := 9, expired := true })], reclaims := [⟨2, 100⟩]
    ctxs := [(0, { Ctx.init with sess := 2, st := .retained })] } rReclaim
theorem witness_reclaim : asked reclaiming 0 0x0208 rReclaim ∧ look reclaiming.sess 1 = some (sess0 0) ∧ (sess0 0).mode = 0
    ∧ (reclaiming.reclaims.find? (fun q => decide (bootTime reclaiming < q.ends) && match look reclaiming.sess q.sess with
        | some y => y.mode == 0 && y.keyHash == (sess0 0).keyHash && y.token == field rReclaim.fields 0 8
        | none => false)) = some ⟨2, 100⟩ ∧ (reclaiming.ctx 0).st = .retained ∧ (reclaiming.ctx 0).sess = 2 := by unfold asked; decide +kernel
theorem witness_reclaim_none : (asking (admin 0) rReclaim).reclaims = [] := rfl

/-! The cellar. -/

def rUpdate : Taken := req 0x0603 (zeros 16)
theorem witness_fw_update : asked (own rUpdate obj0) 0 0x0603 rUpdate ∧ (own rUpdate obj0).fw.update = none ∧ imageOk (own rUpdate obj0) (zeros 16) 16 = false := by
  unfold asked; decide +kernel
def im0 : Image := ⟨2, 1, 1, [], []⟩
def updating : State := { own rUpdate obj0 with fw := { (admin 0).fw with update := some (im0, 5, 0) } }
theorem witness_fw_updating : let s := updating
    s.fw.update = some (im0, rUpdate.uid, 0) ∧ s.taken[0]? = some rUpdate ∧ s.taken.find? (fun u => u.uid == rUpdate.uid) = some rUpdate
    ∧ 0 < (updateOrder s).length ∧ s.trellis.applying = none ∧ (∀ p ∈ s.parts, leaving s p.1 = false)
    ∧ (updateOrder s)[0]? = some (0, 1) ∧ s.fenced 0 = false ∧ (cellarCore s 0 1).st ≠ 4 := by decide +kernel
theorem witness_window_end : let s := { admin 0 with reclaims := [⟨2, 0⟩], ctxs := [] }
    s.reclaims[0]? = some ⟨2, 0⟩ ∧ 0 ≤ bootTime s ∧ ctxsOf s 2 = [] ∧ madeBusy s 2 = false := by decide +kernel
/-- The watchdog of cellar core 3 has run out; with and without the spare. -/
def barking (spare last : Nat) : State := onD (admin 0) (fun d => { d with
  time := 25000000
  cellar := [(3, { CellarCore.init with st := 1, role := 3, lastRestart := some last }), (4, { CellarCore.init with st := spare })] })
theorem witness_watchdog : let s := barking 5 0; let c := cellarCore s 0 3
    c.st = 1 ∧ s.fenced 0 = false ∧ c.kick + Nat.max 1 c.window * 25000 ≤ (s.die 0).time ∧ s.trellis.applying = none
      ∧ s.fw.update = none ∧ (s.die 0).reports.length < 256 ∧ c.lastRestart = some 0 ∧ 0 + 25000000 ≤ (s.die 0).time := by decide +kernel
theorem witness_watchdog_again : let s := barking 5 1
    (cellarCore s 0 3).lastRestart = some 1 ∧ ¬ 1 + 25000000 ≤ (s.die 0).time ∧ (cellarCore s 0 4).st = 5 ∧ s.maps.length < 2048
      ∧ (cellarCore (barking 4 1) 0 4).st ≠ 5 := by decide +kernel

/-! ### Collectives (chapter 13) -/

/-- COLL_CREATE of two members and one bucket, whose tables stand at 0x1000, 0x2000 and 0x3000. -/
def rColl : Taken := req 0x0501 (pack 64 [(4, 2, 4), (8, 4, 11), (12, 4, 2), (20, 4, 1), (24, 8, 0x1000), (32, 8, 0x2000), (40, 4, 1), (48, 8, 0x3000)])
def tables (s : State) : State :=
  let m1 := Mem.setBytes [] 0x1000 (pack 64 [(0, 4, 0x0A000001), (16, 2, 47970), (18, 2, 1), (32, 4, 0x0A000002), (48, 2, 47970), (50, 2, 2)])
  let m2 := Mem.setBytes m1 0x2000 (pack 64 [(0, 2, 6), (8, 4, 64), (0x10, 8, 0x4000), (0x18, 8, 0x5000), (0x20, 8, 0x6000)])
  { s with mem := Mem.setBytes m2 0x3000 ((List.range 64).flatMap (fun _ => natLe 8 1)) }
def sColl : State := asking (tables (onPort0 { port0 with redOn := true })) rColl
theorem witness_coll_create :
    let s := sColl
    let f := field rColl.fields
    let ws := (s.ctx 0).windows
    let r1 := rdVa s (s.home 0) 0 (f 24 8) (32 * 2) false
    let r2 := rdVa r1.2.2 (r1.2.2.home 0) 0 (f 32 8) (64 * f 40 4) false
    let ms := readMembers r1.1 2
    let tab := r2.1
    let grp := (rdVa r2.2.2 (r2.2.2.home 0) 0 (f 48 8) 512 false).1
    let bs := (List.range (f 40 4)).map (fun j => readBucket (slice tab (64 * j) 64) (field grp (8 * field tab (64 * j + 3) 1) 2))
    asked s 0 0x0501 rColl ∧ s.ctxNamed 0 = true ∧ portFitted s 0 = true ∧ (s.port 0).role = 3 ∧ (s.port 0).redOn = true ∧ f 4 2 < 256 ∧ f 12 4 = 2
      ∧ f 16 2 < 2 ∧ f 20 4 < 65536 ∧ f 40 4 = 1 ∧ f 56 4 ≤ 60000 ∧ inNear s ws (f 24 8) 64 = true ∧ inNear s ws (f 32 8) 64 = true
      ∧ inNear s ws (f 48 8) 512 = true ∧ look (s.ctx 0).colls (f 4 2) = none ∧ (s.port 0).colls = []
      ∧ (nth ⟨0, 0, 0, false, []⟩ ms (f 16 2)).inc = f 20 4 ∧ (bs.map Bucket.num).Nodup ∧ field tab 4 1 % 4 = 0
      ∧ (∀ b ∈ bs, b.kind ≤ 2 ∧ b.group ≤ 63 ∧ 0 < b.len ∧ b.len % (32 * 2) = 0 ∧ b.len ≤ 2 ^ 28 ∧ 0 < b.n ∧ b.n ≤ 1024 ∧ b.kind ≠ 2
        ∧ inNear s ws b.accum (8 * b.len + b.len / 32) = true ∧ inRw s ws b.result (b.resultBytes 2) = true ∧ inRw s ws b.done 8 = true)
      ∧ (∀ g ∈ List.range 64, 0 < field grp (8 * g) 2 ∧ field grp (8 * g) 2 ≤ 1024) := by unfold asked; decide +kernel
theorem witness_coll_free : leastFree (sColl.port 0).colls 0 256 = some 0 := by decide +kernel
def rCollEnd : Taken := req 0x0502 (pack 16 [(2, 2, 4)])
theorem witness_coll_destroy : let s := asking (gathered live coll0) rCollEnd
    asked s 0 0x0502 rCollEnd ∧ s.ctxNamed 0 = true ∧ look (s.ctx 0).colls (field rCollEnd.fields 2 2) = some (0, 1) ∧ s.coll 0 1 = some coll0
      ∧ coll0.st ≠ .closed ∧ (∀ b ∈ coll0.buckets, b.active = false ∨ b.complete = false) := by unfold asked; decide +kernel
def rCollQuery : Taken := req 0x0503 (pack 16 [(2, 2, 4)])
theorem witness_coll_query : let s := asking (gathered live coll0) rCollQuery
    asked s 0 0x0503 rCollQuery ∧ s.ctxNamed 0 = true ∧ look (s.ctx 0).colls (field rCollQuery.fields 2 2) = some (0, 1) ∧ s.coll 0 1 = some coll0 := by
  unfold asked; decide +kernel
theorem witness_coll_query_no_args : ∀ off k, argsAt (asking (gathered live coll0) rCollQuery) rCollQuery.sess off k = none := fun _ _ => rfl

/-- A collective of three members, this one first; a bucket with its round in hand. -/
def bucket3 : Bucket := { bucket0 with len := 96, active := true, round := 1, scales := [130, 131, 0], agreed := [some 132, some 133, none] }
def coll3 : Coll := { coll0 with
  m := 3
  members := [⟨0x0A000001, 47970, 1, false, []⟩, ⟨0x0A000002, 47970, 2, false, []⟩, ⟨0x0A000003, 47970, 3, false, []⟩], buckets := [bucket3] }
/-- A packet from the member before, and from the member behind. -/
def fromPrev (f : CollPkt → CollPkt) : CollPkt :=
  f { cpkt with version := 1, job := 11, member := 2, inc := 3, destInc := 1, src := 0x0A000003#128, dport := 47970, bucket := 6, payload := List.replicate 16 5 }
def fromNext (f : CollPkt → CollPkt) : CollPkt :=
  f { cpkt with version := 1, job := 11, member := 1, inc := 2, destInc := 1, src := 0x0A000002#128, dport := 47970 }
/-- A packet of the link on the wire. -/
def link (seq : Nat) : LinkPkt := ⟨{ cpkt with seq := seq, bucket := 6 }, false, true⟩

theorem witness_coll_timers : let c := { coll3 with unacked := [link 4, link 5], ctls := [⟨1, 0x12, 0, 0⟩] }
    (gathered live c).coll 0 1 = some c ∧ ((gathered live c).port 0).ready 3 (c.member c.next).ip = true ∧ ((gathered live c).port 0).ready 3 (c.member 2).ip = true
      ∧ (∀ b ∈ c.buckets, b.active = false ∨ b.complete = false) ∧ c.st ≠ .closed ∧ (∃ x ∈ c.unacked, x.answered = false ∧ x.onWire = true)
      ∧ ((gathered live c).die (portDie 0)).reports.length < 256 := by decide +kernel
theorem witness_link_down : let s := gathered live coll3; let t := s.setPort 0 { s.port 0 with up := false }
    t.coll 0 1 = some coll3 ∧ (t.port 0).up = false ∧ (∃ b ∈ coll3.buckets, b.active = true) ∧ coll3.rateSince = none := by decide +kernel
theorem witness_round_timeout : coll3.bucket 0 = some bucket3 ∧ bucket3.active = true ∧ bucket3.complete = false
    ∧ bucket3.startAt + coll3.window * 25000 ≤ ((onD (gathered live coll3) (fun d => { d with time := 200000 })).die (portDie 0)).time := by decide +kernel
theorem witness_round_complete : let b := { bucket3 with complete := true }; let s := gathered live { coll3 with buckets := [b] }
    { coll3 with buckets := [b] }.bucket 0 = some b ∧ b.active = true ∧ b.complete = true ∧ b.redo = false ∧ b.done % 8 = 0
      ∧ locate s 0 b.done .atomic false = .at_ 0x8000 0 0 ∧ realAddr s 0x8000 := by unfold realAddr; decide +kernel

theorem witness_coll_data : let s := gathered live coll3; let k := fromPrev id
    takesColl s 0 k ∧ (s.port 0).ready 3 (coll3.member coll3.prev).ip = true ∧ k.version = 1 ∧ collOfJob s 0 k.job false = some 1 ∧ s.coll 0 1 = some coll3
      ∧ k.member = coll3.prev ∧ incsOk coll3 k = true ∧ collResetting s coll3 = false ∧ coll3.bucket 0 = some bucket3
      ∧ (List.range coll3.buckets.length).find? (fun j => (nth 0 (coll3.buckets.map Bucket.num) j) == k.bucket) = some 0
      ∧ coll3.recvSeq < 2 ^ 32 ∧ k.seq = coll3.recvSeq ∧ phaseOf coll3 bucket3 k = .take
      ∧ bucket3.cellsRefused s coll3.ctx coll3.m (hopSegment coll3.m coll3.prev k.hop) k.chunk = none := by unfold takesColl; decide +kernel
theorem witness_coll_ahead : (fromPrev fun k => { k with seq := 2 ^ 31 - 1 }).seq = (coll3.recvSeq + (2 ^ 31 - 1)) % 2 ^ 32
    ∧ phaseOf coll3 bucket3 (fromPrev fun k => { k with round := 1 }) = .early := by decide +kernel
theorem witness_coll_hops : (fromPrev id).hop + 2 < coll3.m ∧ coll3.m < (fromPrev fun k => { k with hop := 3 }).hop + 2
    ∧ 2 * coll3.m ≤ (fromPrev fun k => { k with hop := 3 }).hop + 3 ∧ bucket3.kind ≠ 2 := by decide
theorem witness_coll_write : let s := gathered live coll3; let k := fromPrev fun k => { k with hop := 2 }
    let va := bucket3.result + (hopSegment coll3.m coll3.prev k.hop * bucket3.per coll3.m + k.chunk * 8192) * 4
    phaseOf coll3 bucket3 k = .take ∧ coll3.m < k.hop + 2 ∧ bucket3.redo = false ∧ 0 < k.payload.length ∧ va % 64 + 4 * k.payload.length ≤ 64
      ∧ locate s coll3.ctx va .write false = .at_ 0x4100 0 0 ∧ realAddr s 0x4100 := by unfold realAddr; decide +kernel

theorem witness_control_ack : let c := { coll3 with ctlNum := [(1, 1)], ctls := [⟨1, 0x12, 0, 0⟩] }; let s := gathered live c
    let k := fromNext fun k => { k with type := 3, hop := 0xFFFF }
    takesColl s 0 k ∧ collOfJob s 0 k.job true = some 1 ∧ s.coll 0 1 = some c ∧ k.version = 1 ∧ 0 < get 0 c.ctlNum k.member ∧ incsOk c k = true ∧ c.st ≠ .closed
    ∧ (∀ b ∈ c.buckets, b.active = false ∨ b.complete = false) := by
  unfold takesColl; decide +kernel
theorem witness_link_ack : let c := { coll3 with unacked := [link 4, link 5] }; let s := gathered live c; let k := fromNext fun k => { k with type := 3, seq := 4 }
    collOfJob s 0 k.job false = some 1 ∧ k.member = c.next ∧ incsOk c k = true ∧ k.hop ≠ 0xFFFF ∧ k.type = 3 ∧ k.ece = false ∧ c.lastCut = none
      ∧ (c.member k.member).reset = false ∧ c.st ≠ .closed ∧ k.member < c.members.length ∧ (s.die (portDie 0)).reports.length < 256 := by decide +kernel
theorem witness_control : let s := gathered live coll3; let k := fromNext id; let x := coll3.member k.member
    takesColl s 0 k ∧ (s.port 0).ready 3 (coll3.member k.member).ip = true ∧ collOfJob s 0 k.job false = some 1 ∧ k.member < coll3.m ∧ k.member < coll3.members.length ∧ k.member ≠ coll3.own ∧ x.ip = k.src.toNat
      ∧ k.destInc = coll3.inc ∧ coll3.st = .open_ ∧ k.inc = x.inc ∧ k.seq ∉ x.ctlSeen ∧ x.reset = false := by
  unfold takesColl; decide +kernel
theorem witness_control_repeat : let x : Member := { coll3.member 1 with ctlSeen := [0] }
    (fromNext id).seq ∈ x.ctlSeen ∧ (fromNext id).inc = x.inc := by decide
theorem witness_rejoin : let c := { coll3 with st := .held, buckets := [{ bucket3 with active := false }] }; let k := fromNext fun k => { k with inc := 3 }
    k.inc = ((c.member k.member).inc + 1) % 65536 ∧ c.st = .held ∧ ∀ b ∈ c.buckets, b.heldUp = false := by decide

/-! ### Faults and recovery (chapters 15 and 16) -/

/-- The cellar of die 0 at work, and a report that waits there. -/
def watching (s : State) : State := onD s (fun d => { d with cellar := (List.range 4).map (fun i => (i, { CellarCore.init with st := 1, role := i })) })
def reported (f : Fault64) : State := onD (watching live) (fun d => { d with reports := [f] })
theorem witness_fault_report : let f := { Fault64.blank with ctx := 0, cls := 5 }; let s := reported f
    (s.die 0).reports = [f] ∧ roleUp s 0 2 = true ∧ f.cls ∈ [1, 2, 3, 5] ∧ f.ctx ≠ 0xFFFF ∧ l2On s f.ctx = false
    ∧ s.trellis.applying = none ∧ ∀ y ∈ (reported { f with cls := 4 }).parts, y.2.sw = none := by decide +kernel
theorem witness_fault_classes : { Fault64.blank with cls := 6 }.cls = 6
    ∧ (let f := { Fault64.blank with cls := 4, a := 32, unit := 12, index := 0 }; f.cls = 4 ∧ f.a % 256 = 32 ∧ f.unit = 12)
    ∧ (let f := { Fault64.blank with cls := 10, a := 2 }; f.cls = 10 ∧ f.a % 256 = 2 ∧ (reported f).fenced f.die = false) := by decide +kernel
/-- Port 0 with a packet not acknowledged, its count of packets unchanged since time 0. -/
def hung (t : Nat) : State := onD (watching (requester qpSent)) (fun d => { d with time := t, hang := [(unitKey 12 0, (0, 0))] })
theorem witness_hang : let s := hung 50000
    roleUp s 0 2 = true ∧ excused s 0 12 0 = false ∧ hasWork s 0 12 0 = true ∧ look (s.die 0).hang (unitKey 12 0) = some (progressOf s 0 12 0, 0)
      ∧ 0 + (s.die 0).hangWin ≤ (s.die 0).time ∧ (s.die 0).reports.length < 256 ∧ ((hung 49999).die 0).time < 0 + ((hung 49999).die 0).hangWin := by
  decide +kernel
theorem witness_hang_idle : let s := watching live
    roleUp s 0 2 = true ∧ excused s 0 12 0 = false ∧ hasWork s 0 12 0 = false ∧ excused { s with due := [.l1port 0] } 0 12 0 = true := by decide +kernel
def rate0 (ts : List Nat) : RateCount := ⟨5, 2, 7, 0, ts⟩
def counting (ts : List Nat) : State := onD (watching up) (fun d => { d with rates := [rate0 ts] })
theorem witness_hourly : let s := counting [5]
    roleUp s 0 2 = true ∧ (s.die 0).rates = [rate0 [5]] ∧ ((rate0 [5]).times.filter (fun t => decide ((s.die 0).time < t + 2160000000000))).length = 1
      ∧ norFree s = true ∧ s.power.logQ = [] ∧ (logRoom s).1 = true ∧ s.nor.log.length < 65536 := by decide +kernel
def called (s : State) (r : Due) : State := { s with due := [r] }
theorem witness_missed : Due.l3 0 ∈ (called live (.l3 0)).due ∧ Due.l2 0 0 ∈ (called live (.l2 0 0)).due ∧ Due.l1rack 0 3 ∈ (called live (.l1rack 0 3)).due
    ∧ Due.l1port 0 ∈ (called live (.l1port 0)).due ∧ (called live (.l2 0 0)).fenced 0 = false := by decide
theorem witness_missed_l0 : let s := called live (.l0 0); let p := (s.ctx 0).part
    Due.l0 0 ∈ s.due ∧ s.hasPart p = true ∧ (s.part p).lastResetAt = none ∧ (s.part p).st = .inService ∧ (s.part p).sw = none
      ∧ s.trellis.applying = none := by decide +kernel
theorem witness_missed_l4 : let s := called live (.l4 false)
    l4Open s = true ∧ s.power.standby = true ∧ s.power.afterL5 = false ∧ s.power.pwrReq = false := by decide +kernel

theorem witness_context_abort : let s := called (watching stopped) (.l0 0)
    Due.l0 0 ∈ s.due ∧ l2On s 0 = false ∧ roleUp s (0 / 1024) 0 = true ∧ look s.ctxs 0 = some (stopped.ctx 0) ∧ (stopped.ctx 0).st = .stopped
      ∧ (s.part (stopped.ctx 0).part).resident ≠ some 0 ∧ (stopped.ctx 0).colls = [] := by decide +kernel
theorem witness_port_reset : let s := called (requester qpSent) (.l1port 0)
    Due.l1port 0 ∈ s.due ∧ s.fenced (portDie 0) = false ∧ 0 < s.model.ports ∧ (s.port 0).colls = [] := by decide +kernel
theorem witness_partition_reset : let s := called (watching stopped) (.l2 0 0)
    Due.l2 0 0 ∈ s.due ∧ s.fenced 0 = false ∧ roleUp s 0 0 = true ∧ s.trellis.applying = none ∧ chargedCores (s.causesOf (.l2 0 0)) = [] ∧ s.hasPart 0 = true
      ∧ (s.part 0).resident = none ∧ s.hasPart (8 * 0 + 1) = false ∧ s.ports = [] ∧ s.owed = [] := by decide +kernel
theorem witness_partition_resume : let s := called (watching live) (.l2 0 0)
    s.hasPart 0 = true ∧ (s.part 0).resident = some 0 ∧ (s.ctx 0).st = .resident ∧ chargedCores (s.causesOf (.l2 0 0)) = [] := by decide +kernel
theorem witness_die_fence : let s := called { live with ctxs := [(1024 * 3, { Ctx.init with st := .stopped, part := 24 })] } (.l3 3)
    3 ≠ s.fw.bootDie ∧ Due.l3 3 ∈ s.due ∧ s.fenced 3 = false ∧ look s.ctxs (1024 * 3) = some { Ctx.init with st := .stopped, part := 24 } := by decide +kernel
theorem witness_module_reset : let s := called live (.l4 true)
    Due.l4 true ∈ s.due ∧ s.power.standby = true ∧ mayStart s { env0 with hot := true } = false ∧ s.power.resetN = true ∧ mayStart s env0 = true
      ∧ env0.railFail = [] ∧ env0.norOk = true ∧ s.nor.copy.entries = [] ∧ 0 ∈ env0.cellarOk ∧ 0 ∈ env0.serdesOk
      ∧ env0.lanes = [] ∧ 0 ∉ env0.noRef := by decide +kernel

theorem witness_i3c : standby.power.standby = true ∧ standby.i3c.dyn = none
    ∧ (let x := { standby.i3c with dyn := some 9, static := some 0x58, off := 4 }; x.dyn ≠ none ∧ x.static = some (0x58#7).toNat ∧ x.off = 4)
    ∧ { live with fw := { live.fw with inService := true } }.fw.inService = true ∧ look live.ctxs 0 = some (live.ctx 0) ∧ (live.ctx 0).st = .resident := by decide +kernel
theorem witness_registers : 0 < live.model.ports ∧ fittedCore live c0 ∧ 7 < live.model.dies
    ∧ (Reg.healthHang 7).fitted live.model = true ∧ (Reg.rackControl 7 15).fitted live.model = true := by unfold fittedCore; decide +kernel

/-! ### Rules stated whole -/

theorem witness_idcode : 7 < standby.model.dies ∧ standby.power.standby = true := by decide
/-- A bucket whose first block holds 3, 0 and −6 in its accumulation area, and one with a NaN. -/
def blockMem (l : List Nat) : State := { live with mem := Mem.setBytes [] 0x2000 (l.flatMap (fun v => natLe 8 v)) }
theorem witness_exponents : let s := blockMem [0x40400000, 0, 0xC0C00000]
    let xs := (accPairs s 0 bucket0.accum (4 * 0) 4).1.map (fun c => c.1.value)
    0 < bucket0.len / 32 ∧ (∀ x ∈ xs, x.isFin = true) ∧ (∃ x ∈ xs, x.isZero = false) := by decide +kernel
theorem witness_exponents_zero : ∀ x ∈ (accPairs live 0 bucket0.accum (4 * 0) 4).1.map (fun c => c.1.value), x.isZero = true := by decide +kernel
theorem witness_exponents_nan :
    ∃ x ∈ (accPairs (blockMem [0x7FC00000]) 0 bucket0.accum (4 * 0) 4).1.map (fun c => c.1.value), x = .nan := by decide +kernel
theorem test_exponents : (formScales (blockMem [0x40400000, 0, 0xC0C00000]) 0 bucket0).1[0]? = some 129 := by decide +kernel
theorem witness_modes_served : let a := try0 0; let s := { withOwners Tests.served [⟨true, [], zeros 32⟩] with attempts := [a] }
    s.fw.inService = true ∧ listens s 0 = true ∧ msgOk proof0 4 = true ∧ 32 ≤ proof0.body.length
      ∧ s.attempts.find? (fun a => a.ip == proof0.src.toNat) = some a ∧ a.answer = none ∧ a.mode ≤ 2 ∧ ownerOf s a.keyHash = some ⟨true, [], zeros 32⟩ := by
  decide +kernel
theorem witness_modes_boot : booting.fw.inService = false := rfl
/-- An object whose granules are NEAR. -/
def nearObj : Obj := { obj0 with policy := 2, st := 2, grans := [⟨.near, 0, 3, 0⟩, ⟨.near, 0, 4, 1⟩] }
theorem witness_dirty : let s := { live with objs := [(0, nearObj)] }
    look s.objs 0 = some nearObj ∧ nearObj.grans[0]? = some ⟨.near, 0, 3, 0⟩ ∧ locate s 0 0x103D .write true = .at_ 0x103D 0 0
      ∧ 0x103D % 64 + 3 ≤ 64 ∧ locate s 0 0x2000 .atomic false = .at_ 0x2000 0 0 := by decide +kernel
theorem witness_round_trip : Fmt.int8 ∈ formats ∧ 0x7F < 2 ^ Fmt.int8.width ∧ (Fmt.int8.decode 0x7F).isFin = true := by decide
end Sys2Proof.Tests
end

section
/-! SUPPORT. O21 and O22: the rows of the outer-product engine that load, exchange and run its arrays (R84 to R100, R144 to R148). -/

set_option autoImplicit false

namespace Sys2Proof.Machine.OuterArrays

/-! ### Changes of one core -/

theorem onCore_of_fitted {c : CoreId} {s : State} (h : fittedCore s c) (f : Nat → State → State) :
    onCore c s f = .next (f (ck c) s) := if_pos h

theorem coreOnly_refl (s : State) (k : Nat) : coreOnly s s k := ⟨rfl, fun _ _ => rfl⟩

/-- A change of the core that has changed so far is still a change of that core alone. -/
theorem coreOnly_onC {s t : State} {k : Nat} (h : coreOnly s t k) (f : Core → Core) : coreOnly s (t.onC k f) k := by
  obtain ⟨same, others⟩ := h
  refine ⟨?_, fun j hj => by rw [State.core_onC, if_neg hj, others j hj]⟩
  rw [same]
  rfl

theorem coreOnly_onCx {s t : State} {k : Nat} (h : coreOnly s t k) (f : CoreCtx → CoreCtx) : coreOnly s (t.onCx k f) k :=
  coreOnly_onC h _

theorem coreOnly_onArr {s t : State} {k : Nat} (h : coreOnly s t k) (a : Nat) (f : Arr → Arr) : coreOnly s (t.onArr k a f) k :=
  coreOnly_onCx h _

theorem coreOnly_onEng {s t : State} {k : Nat} (h : coreOnly s t k) (e : Engine) (f : Eng → Eng) : coreOnly s (t.onEng k e f) k :=
  coreOnly_onC h _

theorem coreOnly_onHw {s t : State} {k : Nat} (h : coreOnly s t k) (f : CoreHw → CoreHw) : coreOnly s (t.onHw k f) k :=
  coreOnly_onC h _

theorem coreOnly_begin {s t : State} {k : Nat} (h : coreOnly s t k) (e : Engine) (n : QEntry) : coreOnly s (begin_ t k e n) k :=
  coreOnly_onEng h ..

theorem coreOnly_finish {s t : State} {k : Nat} (h : coreOnly s t k) (e : Engine) (seq : Nat) : coreOnly s (finish t k e seq) k := by
  unfold finish retire
  exact coreOnly_onHw (coreOnly_onEng (coreOnly_onEng h ..) ..) _

@[simp] theorem core_onCx (s : State) (k : Nat) (f : CoreCtx → CoreCtx) :
    (s.onCx k f).core k = { s.core k with cx := f (s.core k).cx } := State.core_setCore ..

/-- An engine's queue is apart from the arrays (R182). -/
@[simp] theorem arr_setEng (c : Core) (e : Engine) (x : Eng) (a : Nat) : (c.setEng e x).arr a = c.arr a := by
  cases e <;> rfl

@[simp] theorem flights_setEng (c : Core) (e : Engine) (x : Eng) : (c.setEng e x).cx.flights = c.cx.flights := by
  cases e <;> rfl

theorem finish_core (s : State) (k : Nat) (e : Engine) (seq : Nat) :
    ∃ x h, (finish s k e seq).core k = { (s.core k).setEng e x with hw := h } := by
  unfold finish retire
  simp only [State.onEng, State.onHw, State.core_onC, if_true]
  cases e <;> exact ⟨_, _, rfl⟩

@[simp] theorem finish_arr (s : State) (k : Nat) (e : Engine) (seq a : Nat) :
    ((finish s k e seq).core k).arr a = (s.core k).arr a := by
  obtain ⟨x, h, eq⟩ := finish_core s k e seq
  rw [eq]
  exact arr_setEng ..

@[simp] theorem finish_flights (s : State) (k : Nat) (e : Engine) (seq : Nat) :
    ((finish s k e seq).core k).cx.flights = (s.core k).cx.flights := by
  obtain ⟨x, h, eq⟩ := finish_core s k e seq
  rw [eq]
  exact flights_setEng ..

/-! ### The end of a run -/

theorem settleRun_cases (s : State) (k seq : Nat) : settleRun s k seq = s ∨ settleRun s k seq = finish s k .ope seq := by
  unfold settleRun
  dsimp only
  generalize (_ || _ : Bool) = waits
  cases waits
  · exact .inr rfl
  · exact .inl rfl

theorem coreOnly_settleRun {s t : State} {k : Nat} (h : coreOnly s t k) (seq : Nat) : coreOnly s (settleRun t k seq) k := by
  obtain same | done := settleRun_cases t k seq
  · rwa [same]
  · rw [done]; exact coreOnly_finish h ..

@[simp] theorem settleRun_arr (s : State) (k seq a : Nat) : ((settleRun s k seq).core k).arr a = (s.core k).arr a := by
  obtain same | done := settleRun_cases s k seq
  · rw [same]
  · rw [done, finish_arr]

@[simp] theorem settleRun_flights (s : State) (k seq : Nat) :
    ((settleRun s k seq).core k).cx.flights = (s.core k).cx.flights := by
  obtain same | done := settleRun_cases s k seq
  · rw [same]
  · rw [done, finish_flights]

/-! ### Arrays -/

theorem arr_of_length_le (c : Core) (a : Nat) (h : c.cx.arrs.length ≤ a) : c.arr a = .empty := by
  simp [Core.arr, nth, h]

theorem nth_map_zipIdx {α : Type} (d : α) (g : α × Nat → α) (l : List α) (a : Nat) :
    nth d (l.zipIdx.map g) a = if a < l.length then g (nth d l a, a) else d := by
  unfold nth
  split
  case isTrue h => simp [h]
  case isFalse h => simp [h]

theorem nth_modNth {α : Type} (d : α) (l : List α) (a b : Nat) (f : α → α) :
    nth d (modNth l a f) b = if b = a ∧ a < l.length then f (nth d l a) else nth d l b := by
  unfold nth modNth
  rw [List.getElem?_modify]
  by_cases same : b = a
  · subst same
    by_cases inside : b < l.length
    · simp [inside]
    · simp [inside]
  · have ne : ¬ a = b := fun e => same e.symm
    simp [same, ne]

theorem arr_onArr (s : State) (k a b : Nat) (f : Arr → Arr) :
    ((s.onArr k a f).core k).arr b = if b = a ∧ a < (s.core k).cx.arrs.length then f ((s.core k).arr a) else (s.core k).arr b := by
  simp only [State.onArr, core_onCx, Core.arr, nth_modNth]

/-- A change of an array that keeps its cells keeps those of every array. -/
theorem cells_onArr_of_cells (s : State) (k a b : Nat) (f : Arr → Arr) (h : ∀ x, (f x).cells = x.cells) :
    (((s.onArr k a f).core k).arr b).cells = ((s.core k).arr b).cells := by
  rw [arr_onArr]
  split
  next e => rw [h, e.1]
  · rfl

/-! ### OPLOAD of one array -/

@[simp] theorem ring_setEng (c : Core) (e : Engine) (x : Eng) (r : Nat) : (c.setEng e x).ring r = c.ring r := by
  cases e <;> rfl

@[simp] theorem ring_onArr (s : State) (k a r : Nat) (f : Arr → Arr) : ((s.onArr k a f).core k).ring r = (s.core k).ring r := by
  simp [State.onArr, Core.ring]

@[simp] theorem ring_begin (s : State) (k r : Nat) (e : Engine) (n : QEntry) :
    ((begin_ s k e n).core k).ring r = (s.core k).ring r := by
  simp [begin_, State.onEng, State.core_onC]

/-- An EMPTY bank holds no slot to release (R85). -/
theorem retireBank_of_empty {s : State} {k a n : Nat} (h : (((s.core k).arr a).bank n).st = .empty) :
    retireBank s k a n = s.onArr k a (fun x => x.setBank n .empty) := by
  simp [retireBank, h]

theorem readyN_one {x : Ring} {i : Nat} {y : Slot} (h : x.ready = some (i, y)) : x.readyN 1 = some [i] := by
  simp [Ring.readyN, h]

/-- The bank that an OPLOAD of array a loads (R84, R85, R178), from slot i. -/
def loadingBank (n : QEntry) (a i : Nat) : Bank :=
  ⟨.loading, 0, loadRing n.word a, [i], bit n.word.toNat 85, bit n.word.toNat 87, n.seq, bit n.word.toNat 86, [], false⟩

/-- The state in which an OPLOAD of array a alone has begun, its shadow bank EMPTY. -/
def loadBegun (s : State) (k a : Nat) (n : QEntry) : State :=
  begin_ (s.onArr k a (fun x => x.setBank (1 - ((s.core k).arr a).active) .empty)) k .ope n

/-- The state in which an OPLOAD of array a alone has taken slot i. -/
def loadTaken (s : State) (k a i : Nat) (n : QEntry) : State :=
  (takeSlot (loadBegun s k a n) k (loadRing n.word a)).onArr k a (fun x => x.setBank (1 - x.active) (loadingBank n a i))

theorem exec_opload_one {c : CoreId} {s : State} {ctx a i : Nat} {n : QEntry} {y : Slot} (fit : fittedCore s c)
    (head : s.head (ck c) .ope 0x40 = some (ctx, n)) (solo : s.duoOf (ck c) = false)
    (one : arraysOf false (wf n.word 111 108) = [a]) (ring : ((s.core (ck c)).ring (loadRing n.word a)).opeCause = 0)
    (empty : ((s.core (ck c)).arr a).shadow.st = .empty)
    (ready : ((s.core (ck c)).ring (loadRing n.word a)).ready = some (i, y))
    (operand : (s.core (ck c)).takes (loadRing n.word a) i = true) :
    exec (.opload c) s = .next (settleLoads (loadTaken s (ck c) a i n) (ck c)) := by
  have e : exec (.opload c) s = execOpload c s := rfl
  have retired : retireBank s (ck c) a (1 - ((s.core (ck c)).arr a).active) =
    s.onArr (ck c) a (fun x => x.setBank (1 - ((s.core (ck c)).arr a).active) .empty) := retireBank_of_empty empty
  have ready1 := readyN_one ready
  have operand' : ((s.onArr (ck c) a (fun x => x.setBank (1 - ((s.core (ck c)).arr a).active) .empty)).core (ck c)).takes
      (loadRing n.word a) i = true := by simpa [Core.takes] using operand
  rw [e, execOpload, onCore_of_fitted fit]
  simp only [head, solo, one]
  simp [ring, empty, retired, ready1, operand', loadTaken, loadBegun, loadingBank]

theorem ring_loadBegun (s : State) (k a r : Nat) (n : QEntry) : ((loadBegun s k a n).core k).ring r = (s.core k).ring r := by
  simp [loadBegun]

theorem outlasted_loadBegun (s : State) (k a r : Nat) (n : QEntry) :
    ((loadBegun s k a n).core k).outlasted r = (s.core k).outlasted r := by
  have hw : ((loadBegun s k a n).core k).hw = (s.core k).hw := by
    simp [loadBegun, begin_, State.onEng, State.core_onC, Core.setEng, State.onArr]
  simp only [Core.outlasted, ring_loadBegun, hw]

theorem settleLoads_free (s : State) (k : Nat) : (settleLoads s k).free = s.free :=
  foldl_keeps _ State.free (fun s n => by split <;> rfl) _ _

/-- A wait whose length no array tells draws a free value for the mark of UNCOVERED (R249, log 18). -/
theorem takeSlot_free_of_untold {s : State} {k r : Nat} (late : ((s.core k).ring r).lateSeen = true)
    (untold : (s.core k).outlasted r = none) : (takeSlot s k r).free = s.free + 1 := by
  have drawn : (uncovered s k r).free = s.free + 1 := by
    simp only [uncovered, late, untold, Bool.not_true, Bool.false_eq_true, if_false]
    exact (apply_ite State.free ..).trans (ite_self _)
  exact drawn

theorem loadTaken_free_of_untold {s : State} {k a : Nat} (i : Nat) {n : QEntry}
    (late : ((s.core k).ring (loadRing n.word a)).lateSeen = true) (untold : (s.core k).outlasted (loadRing n.word a) = none) :
    (settleLoads (loadTaken s k a i n) k).free = s.free + 1 := by
  rw [settleLoads_free]
  exact takeSlot_free_of_untold (by rwa [ring_loadBegun]) (by rwa [outlasted_loadBegun])

/-! ### A load that comes late while every array is idle -/

/-- OPLOAD of array 0 from ring 0. -/
def lateWord : CmdWord := BitVec.ofNat 128 (0x40 * 2 ^ 120 + 1 * 2 ^ 118 + 1 * 2 ^ 108)

/-- The OPLOAD on its queue. -/
def lateEntry : QEntry := ⟨lateWord, 0, 0, .waiting⟩

/-- A tensor of one row of 128 BF16 elements. -/
def rowDesc : Desc := ⟨0, 128, 1, 1, 1, 256, 0, 0, 1, true, .tensor, false, false, false, 0, 0, none, 0, none, 0, 0⟩

/-- Ring 0 of the TE and the OPE, its slot at READ in a state. -/
def rowRing (st : SlotSt) : Ring := { Ring.empty with
  geom := ⟨true, 0, 4, 3, 3, 1, 0, 0⟩
  slots := [⟨st, 0, 1, 1, 128, false, false, 0, 0, .made⟩, .empty, .empty]
  tail := 1
  bound := some ⟨1, rowDesc, 0⟩ }

/-- Core 0 of die 0, whose arrays are all idle, with the OPLOAD next on its queue and the slot that it needs still FILLING. -/
def loadWaits : State := { State.reset with
  cores := [(0, { Core.init with
    ctx := some 0
    cx := { CoreCtx.init with
      ope := { Eng.empty with q := [lateEntry], nextSeq := 1 }
      rings := rowRing .filling :: List.replicate 31 .empty } })]
  parts := [(0, { Part.init with resident := some 0, phys := List.range 8 })]
  ctxs := [(0, { Ctx.init with st := .resident })] }

/-- The OPLOAD reaches the slot too early: it is late (R249). -/
theorem opload_loadWaits : exec (.opload ⟨0, 0⟩) loadWaits = .next (lateSlot loadWaits 0 0) := rfl

/-- After that try the TE has filled the slot. -/
def loadLate : State := fillSlot (lateSlot loadWaits 0 0) 0 0 0 ⟨1, 1, 128, false, 0, 0, zeros 256, []⟩

/-- The OPLOAD may begin now, as the first clause of O21 asks. -/
theorem loadLate_ready : let co := loadLate.core 0
    fittedCore loadLate ⟨0, 0⟩ ∧ co.cx.arrs.length = 4 ∧ loadLate.head 0 .ope 0x40 = some (0, lateEntry) ∧ loadLate.duoOf 0 = false
      ∧ arraysOf false (wf lateWord 111 108) = [0] ∧ (co.ring (loadRing lateWord 0)).opeCause = 0 ∧ (co.arr 0).active ≤ 1
      ∧ (co.arr 0).shadow.st = .empty
      ∧ (co.ring (loadRing lateWord 0)).ready = some (0, ⟨.valid, 0, 1, 1, 128, false, false, 0, 0, .made⟩)
      ∧ co.takes (loadRing lateWord 0) 0 = true := by
  unfold fittedCore
  decide +kernel

/-- The slot came late, and no array tells for how long. -/
theorem loadLate_untold : let co := loadLate.core 0
    (co.ring (loadRing lateWord 0)).lateSeen = true ∧ co.outlasted (loadRing lateWord 0) = none := by
  decide +kernel

/-- Refutes O21 by its first clause: the slot that the OPLOAD takes came late while every array was idle, so that a free value
decides the mark of UNCOVERED (R249, log 18). The step draws it, and the number of values drawn is not part of any core. -/
theorem not_banksLoadAndSwap : ¬ Obligations.BanksLoadAndSwap := by
  unfold Obligations.BanksLoadAndSwap
  intro h
  obtain ⟨fit, len, head, solo, one, ring, low, empty, ready, operand⟩ := loadLate_ready
  obtain ⟨late, untold⟩ := loadLate_untold
  obtain ⟨loads, -, -⟩ := h ⟨0, 0⟩ loadLate fit len
  obtain ⟨t, next, ⟨frame, -⟩, -⟩ := loads 0 lateEntry 0 0 _ head solo one ring low empty ready operand
  have drawn : t.free = loadLate.free + 1 := by
    rw [exec_opload_one fit head solo one ring empty ready operand] at next
    injection next with taken
    rw [← taken]
    exact loadTaken_free_of_untold 0 late untold
  have kept : t.free = loadLate.free := by rw [frame]
  omega

/-! ### OPRUN -/

/-- What a run leaves of each array as it starts (R97, R144): `zs` are the physical arrays that ZERO names, `rs` the arrays of
the run, `mode` their MODE. -/
def startArr (zs rs : List Nat) (mode : Nat → Nat) (p : Arr × Nat) : Arr :=
  let y := if zs.contains p.2 then { p.1 with cells := [], flags := .none } else p.1
  if rs.contains p.2 then { y with isMode := mode p.2 == 3 } else y

theorem startArr_cleared (zs rs : List Nat) (mode : Nat → Nat) (x : Arr) (a : Nat) (h : a ∈ zs) :
    (startArr zs rs mode (x, a)).cells = [] ∧ (startArr zs rs mode (x, a)).flags = .none := by
  unfold startArr
  rw [if_pos (List.contains_iff_mem.2 h)]
  dsimp only
  split <;> exact ⟨rfl, rfl⟩

theorem startArr_kept (zs rs : List Nat) (mode : Nat → Nat) (x : Arr) (a : Nat) (h : a ∉ zs) :
    (startArr zs rs mode (x, a)).cells = x.cells ∧ (startArr zs rs mode (x, a)).flags = x.flags := by
  unfold startArr
  rw [if_neg (mt List.contains_iff_mem.1 h)]
  dsimp only
  split <;> exact ⟨rfl, rfl⟩

theorem startArr_banks (zs rs : List Nat) (mode : Nat → Nat) (p : Arr × Nat) :
    (startArr zs rs mode p).b0 = p.1.b0 ∧ (startArr zs rs mode p).b1 = p.1.b1 := by
  unfold startArr
  dsimp only
  (repeat' split) <;> exact ⟨rfl, rfl⟩

/-- The state in which a run has started. -/
def runStarted (s : State) (k : Nat) (n : QEntry) : State :=
  let duo := s.duoOf k
  (begin_ s k .ope n).onCx k (fun x => { x with
    arrs := x.arrs.zipIdx.map (startArr ((arraysOf duo (wf n.word 85 82)).flatMap (physArrs duo)) (runArrs duo n.word) (runMode n.word))
    run := some ⟨n.seq, 0, 0, 0, []⟩ })

theorem exec_oprun {c : CoreId} {s : State} {ctx : Nat} {n : QEntry} (fit : fittedCore s c)
    (head : s.head (ck c) .ope 0x42 = some (ctx, n)) (ring : ((s.core (ck c)).ring (wf n.word 91 87)).opeCause = 0)
    (idle : (arraysOf (s.duoOf (ck c)) (wf n.word 85 82)).any ((s.core (ck c)).runOn (s.duoOf (ck c))) = false) :
    exec (.oprun c) s = .next (runStarted s (ck c) n) := by
  have e : exec (.oprun c) s = execOprun c s := rfl
  rw [e, execOprun, onCore_of_fitted fit]
  simp only [head, ring, idle]
  rfl

theorem coreOnly_runStarted (s : State) (k : Nat) (n : QEntry) : coreOnly s (runStarted s k n) k := by
  unfold runStarted
  exact coreOnly_onCx (coreOnly_begin (coreOnly_refl s k) ..) _

/-- Each array of the core once a run has started; an array that the core does not have stays empty. -/
theorem runStarted_arr (s : State) (k : Nat) (n : QEntry) (a : Nat) :
    let duo := s.duoOf k
    ((runStarted s k n).core k).arr a = if a < (s.core k).cx.arrs.length then
      startArr ((arraysOf duo (wf n.word 85 82)).flatMap (physArrs duo)) (runArrs duo n.word) (runMode n.word) ((s.core k).arr a, a)
      else .empty := by
  have same : ((begin_ s k .ope n).core k).cx.arrs = (s.core k).cx.arrs := by
    simp [begin_, State.onEng, State.core_onC, Core.setEng]
  simp only [runStarted, core_onCx, Core.arr, same, nth_map_zipIdx]

theorem oprun_starts {c : CoreId} {s : State} {ctx : Nat} {n : QEntry} (fit : fittedCore s c)
    (head : s.head (ck c) .ope 0x42 = some (ctx, n)) (ring : ((s.core (ck c)).ring (wf n.word 91 87)).opeCause = 0)
    (idle : (arraysOf (s.duoOf (ck c)) (wf n.word 85 82)).any ((s.core (ck c)).runOn (s.duoOf (ck c))) = false) :
    let k := ck c
    let co := s.core k
    let zs := (arraysOf (s.duoOf k) (wf n.word 85 82)).flatMap (physArrs (s.duoOf k))
    ∃ t, exec (.oprun c) s = .next t ∧ coreOnly s t k ∧ (t.core k).cx.run = some ⟨n.seq, 0, 0, 0, []⟩
      ∧ (∀ a, a ∈ zs → ((t.core k).arr a).cells = [] ∧ ((t.core k).arr a).flags = .none)
      ∧ (∀ a, a ∉ zs → ((t.core k).arr a).cells = (co.arr a).cells ∧ ((t.core k).arr a).flags = (co.arr a).flags)
      ∧ (∀ a, ((t.core k).arr a).b0 = (co.arr a).b0 ∧ ((t.core k).arr a).b1 = (co.arr a).b1) := by
  intro k co zs
  have out : ∀ a, ¬ a < co.cx.arrs.length → co.arr a = .empty := fun a h => arr_of_length_le _ _ (Nat.le_of_not_lt h)
  refine ⟨_, exec_oprun fit head ring idle, coreOnly_runStarted .., by simp [runStarted, k], ?_, ?_, ?_⟩
  · intro a cleared
    rw [runStarted_arr]
    split
    · exact startArr_cleared _ _ _ _ _ cleared
    · exact ⟨rfl, rfl⟩
  · intro a kept
    rw [runStarted_arr]
    split
    · exact startArr_kept _ _ _ _ _ kept
    next h => rw [out a h]; exact ⟨rfl, rfl⟩
  · intro a
    rw [runStarted_arr]
    split
    · exact startArr_banks ..
    next h => rw [out a h]; exact ⟨rfl, rfl⟩

/-! ### Sums that land -/

/-- The cell in which sum j of a flight lands (R96): along its row, or down its column. -/
def cellOf (f : Flight) (j : Nat) : Nat := if f.isRow then f.at_ * 128 + j else j * 128 + f.at_

theorem cellOf_inj (f : Flight) {i j : Nat} (h : cellOf f i = cellOf f j) : i = j := by
  unfold cellOf at h
  split at h <;> omega

/-- One sum lands in its cell, and the flags that it sets are kept. -/
def landOne (f : Flight) (z : SMap Cell × TileFlags) (p : Cell × Nat) : SMap Cell × TileFlags :=
  let (u, g) := landOn (get .zero z.1 (cellOf f p.2)) p.1
  (put z.1 (cellOf f p.2) u, z.2.or g)

/-- The cells and the flags of an array once every sum of a flight has landed. -/
def landed (f : Flight) (z : SMap Cell × TileFlags) : SMap Cell × TileFlags := f.sums.zipIdx.foldl (landOne f) z

theorem landOne_cell (f : Flight) (z : SMap Cell × TileFlags) (p : Cell × Nat) (i : Nat) :
    get .zero (landOne f z p).1 i = if i = cellOf f p.2 then landCell (get .zero z.1 i) p.1 else get .zero z.1 i := by
  simp only [landOne, landOn, get_put]
  split
  next h => rw [h]
  · rfl

/-- Sums that count from n touch no cell of an earlier number. -/
theorem land_before (f : Flight) (l : List Cell) (n j : Nat) (z : SMap Cell × TileFlags) (h : j < n) :
    get .zero ((l.zipIdx n).foldl (landOne f) z).1 (cellOf f j) = get .zero z.1 (cellOf f j) := by
  induction l generalizing n z with
  | nil => rfl
  | cons u l ih =>
    have apart : cellOf f j ≠ cellOf f n := fun e => Nat.ne_of_lt h (cellOf_inj f e)
    rw [List.zipIdx_cons, List.foldl_cons, ih _ _ (by omega), landOne_cell, if_neg apart]

/-- Sum j lands in its cell once: no other sum of the flight has that cell. -/
theorem land_at (f : Flight) (l : List Cell) (n j : Nat) (u : Cell) (z : SMap Cell × TileFlags) (h : l[j]? = some u) :
    get .zero ((l.zipIdx n).foldl (landOne f) z).1 (cellOf f (n + j)) = landCell (get .zero z.1 (cellOf f (n + j))) u := by
  induction l generalizing n j z with
  | nil => simp at h
  | cons v l ih =>
    rw [List.zipIdx_cons, List.foldl_cons]
    cases j with
    | zero =>
      obtain rfl : v = u := by simpa using h
      rw [land_before f l (n + 1) (n + 0) _ (by omega), landOne_cell]
      exact if_pos rfl
    | succ j =>
      have apart : cellOf f (n + 1 + j) ≠ cellOf f n := fun e => by have := cellOf_inj f e; omega
      have step := ih (n + 1) j (landOne f z (v, n)) (by simpa using h)
      rw [landOne_cell, if_neg apart] at step
      rwa [show n + (j + 1) = n + 1 + j by omega]

theorem landed_cell (f : Flight) (z : SMap Cell × TileFlags) (j : Nat) (u : Cell) (h : f.sums[j]? = some u) :
    get .zero (landed f z).1 (cellOf f j) = landCell (get .zero z.1 (cellOf f j)) u := by
  simpa [landed] using land_at f f.sums 0 j u z h

/-- The state in which the sums of a flight on an array have landed, its run not yet looked at. -/
def sumsLanded (s : State) (k a : Nat) (f : Flight) : State :=
  let own := arrOf (s.duoOf k) a
  let z := landed f (((s.core k).arr a).cells, ((s.core k).arr own).flags)
  ((s.onArr k a (fun x => { x with cells := z.1 })).onArr k own (fun x => { x with flags := z.2 })).onCx k
    (fun x => { x with flights := x.flights.erase f })

theorem landSum_eq {s : State} {k a : Nat} {f : Flight} (h : (s.core k).cx.flights.find? (fun f => f.arr == a) = some f) :
    landSum s k a = settleRun (sumsLanded s k a f) k f.seq := by
  unfold landSum
  rw [h]
  rfl

theorem exec_partialSumLanded {c : CoreId} {s : State} {a : Nat} {f : Flight} (fit : fittedCore s c)
    (ctx : (s.core (ck c)).ctx.isSome = true) (runs : s.haltedAt (ck c) = false)
    (first : (s.core (ck c)).cx.flights.find? (fun f => f.arr == a) = some f) :
    exec (.partialSumLanded c a) s = .next (settleRun (sumsLanded s (ck c) a f) (ck c) f.seq) := by
  have e : exec (.partialSumLanded c a) s = execPartialSumLanded c a s := rfl
  rw [e, execPartialSumLanded, onCore_of_fitted fit, if_pos ⟨ctx, by simp [runs]⟩, landSum_eq first]

theorem coreOnly_sumsLanded (s : State) (k a : Nat) (f : Flight) : coreOnly s (sumsLanded s k a f) k := by
  unfold sumsLanded
  exact coreOnly_onCx (coreOnly_onArr (coreOnly_onArr (coreOnly_refl s k) ..) ..) _

theorem sumsLanded_flights (s : State) (k a : Nat) (f : Flight) :
    ((sumsLanded s k a f).core k).cx.flights = (s.core k).cx.flights.erase f := by
  simp [sumsLanded, State.onArr]

/-- The cells after a landing: the fold's on the array of the flight, the earlier ones on every other. -/
theorem sumsLanded_cells (s : State) (k a b : Nat) (f : Flight) (h : a < (s.core k).cx.arrs.length) :
    (((sumsLanded s k a f).core k).arr b).cells =
      if b = a then (landed f (((s.core k).arr a).cells, ((s.core k).arr (arrOf (s.duoOf k) a)).flags)).1
      else ((s.core k).arr b).cells := by
  have flightsApart : ∀ (t : State) (g : List Flight → List Flight),
      ((t.onCx k (fun x => { x with flights := g x.flights })).core k).arr b = (t.core k).arr b := by
    intro t g
    simp [Core.arr]
  unfold sumsLanded
  dsimp only
  rw [flightsApart _ (fun l => l.erase f), cells_onArr_of_cells, arr_onArr]
  · by_cases same : b = a
    · rw [if_pos same, if_pos ⟨same, h⟩]
    · rw [if_neg same, if_neg (fun e => same e.1)]
  · exact fun _ => rfl

theorem partialSum_lands {c : CoreId} {s : State} {a : Nat} {f : Flight} (fit : fittedCore s c)
    (inside : a < (s.core (ck c)).cx.arrs.length) (ctx : (s.core (ck c)).ctx.isSome = true) (runs : s.haltedAt (ck c) = false)
    (first : (s.core (ck c)).cx.flights.find? (fun f => f.arr == a) = some f) :
    let k := ck c
    let co := s.core k
    ∃ t, exec (.partialSumLanded c a) s = .next t ∧ coreOnly s t k ∧ (t.core k).cx.flights = co.cx.flights.erase f
      ∧ (∀ j u, f.sums[j]? = some u →
          get .zero ((t.core k).arr a).cells (cellOf f j) = landCell (get .zero (co.arr a).cells (cellOf f j)) u)
      ∧ ∀ b, b ≠ a → ((t.core k).arr b).cells = (co.arr b).cells := by
  intro k co
  refine ⟨_, exec_partialSumLanded fit ctx runs first, coreOnly_settleRun (coreOnly_sumsLanded ..) _, ?_, ?_, ?_⟩
  · rw [settleRun_flights, sumsLanded_flights]
  · intro j u hj
    rw [settleRun_arr, sumsLanded_cells _ _ _ _ _ inside, if_pos rfl, landed_cell _ _ _ _ hj]
  · intro b other
    rw [settleRun_arr, sumsLanded_cells _ _ _ _ _ inside, if_neg other]

/-- Settles O22: a start changes each array on its own (`startArr`), and the sums of a flight have cells of their own, so that
each lands once. -/
theorem runsStartAndLand : Obligations.RunsStartAndLand := by
  unfold Obligations.RunsStartAndLand
  constructor
  · intro c s ctx n fit k co zs head ring idle
    exact oprun_starts fit head ring idle
  · intro c s a f fit ha k co len ctx runs first
    exact partialSum_lands fit (len ▸ ha) ctx runs first

end Sys2Proof.Machine.OuterArrays
end

section
/-! SUPPORT. O56 and O60: the codes of the element formats, their values and the rounding of those values back into a format
(R115, R116, R118 to R120, R136, R527). -/

set_option autoImplicit false

namespace Sys2Proof.Machine.ElementCodes

/-! ### Magnitudes against powers of two -/

/-- The magnitude n / d is k · 2^x, with the power of two multiplied out. -/
def Scaled (n d k : Nat) (x : Int) : Prop := n * 2 ^ (-x).toNat = k * d * 2 ^ x.toNat

/-- 2^x ≤ n / d, with the power of two multiplied out. -/
def PowLe (x : Int) (n d : Nat) : Prop := d * 2 ^ x.toNat ≤ n * 2 ^ (-x).toNat

/-- Any two powers whose exponents differ by x serve as well. -/
theorem powLe_iff {x : Int} {p q : Nat} (n d : Nat) (diff : (p : Int) - q = x) : PowLe x n d ↔ d * 2 ^ p ≤ n * 2 ^ q := by
  obtain ⟨r, rfl, rfl⟩ : ∃ r, p = x.toNat + r ∧ q = (-x).toNat + r := ⟨min p q, by omega, by omega⟩
  rw [Nat.pow_add, Nat.pow_add, ← Nat.mul_assoc, ← Nat.mul_assoc, PowLe]
  exact (Nat.mul_le_mul_right_iff (Nat.two_pow_pos _)).symm

theorem PowLe.mono {x y : Int} {n d : Nat} (le : x ≤ y) (h : PowLe y n d) : PowLe x n d := by
  rw [powLe_iff (p := y.toNat) (q := (-y).toNat + (y - x).toNat) n d (by omega), Nat.pow_add, ← Nat.mul_assoc]
  exact Nat.le_trans h (Nat.le_mul_of_pos_right _ (Nat.two_pow_pos _))

/-- The difference of the two logarithms is within one of the logarithm of the ratio. -/
theorem powLe_log2_sub {n d : Nat} (hn : 0 < n) (hd : 0 < d) :
    PowLe ((n.log2 : Int) - d.log2 - 1) n d ∧ ¬ PowLe ((n.log2 : Int) - d.log2 + 1) n d := by
  have nLow := Nat.log2_self_le (Nat.ne_of_gt hn)
  have dLow := Nat.log2_self_le (Nat.ne_of_gt hd)
  rw [powLe_iff (p := n.log2) (q := d.log2 + 1) n d (by omega), powLe_iff (p := n.log2 + 1) (q := d.log2) n d (by omega),
    Nat.not_le, Nat.mul_comm n, Nat.mul_comm n, Nat.mul_comm d (2 ^ (n.log2 + 1))]
  constructor
  · exact Nat.mul_le_mul (Nat.le_of_lt Nat.lt_log2_self) nLow
  · rw [Nat.mul_comm]
    exact Nat.mul_lt_mul_of_lt_of_le Nat.lt_log2_self dLow hd

/-- The comparison in `flog2`. -/
theorem below_iff (n d : Nat) (l : Int) :
    (if l < 0 then decide (n * 2 ^ (-l).toNat < d) else decide (n < d * 2 ^ l.toNat)) = true ↔ ¬ PowLe l n d := by
  rw [PowLe, Nat.not_le]
  by_cases neg : l < 0
  · rw [if_pos neg, decide_eq_true_iff, Int.toNat_of_nonpos (by omega : l ≤ 0), Nat.pow_zero, Nat.mul_one]
  · rw [if_neg neg, decide_eq_true_iff, Int.toNat_of_nonpos (by omega : -l ≤ 0), Nat.pow_zero, Nat.mul_one]

/-- `flog2` is the largest exponent of a power of two not above the ratio. -/
theorem flog2_spec {n d : Nat} (hn : 0 < n) (hd : 0 < d) : PowLe (flog2 n d) n d ∧ ¬ PowLe (flog2 n d + 1) n d := by
  obtain ⟨low, high⟩ := powLe_log2_sub hn hd
  have below := below_iff n d ((n.log2 : Int) - d.log2)
  unfold flog2
  dsimp only
  by_cases lower : PowLe ((n.log2 : Int) - d.log2) n d
  · rw [if_neg (fun h => below.1 h lower)]
    exact ⟨lower, high⟩
  · rw [if_pos (below.2 lower), Int.sub_add_cancel]
    exact ⟨low, lower⟩

theorem le_flog2_iff {n d : Nat} (hn : 0 < n) (hd : 0 < d) (x : Int) : x ≤ flog2 n d ↔ PowLe x n d := by
  obtain ⟨low, high⟩ := flog2_spec hn hd
  constructor
  · exact fun le => low.mono le
  · intro h
    by_cases le : x ≤ flog2 n d
    · exact le
    · exact absurd (h.mono (by omega)) high

/-- A magnitude in lowest terms is the magnitude that it was made from. -/
theorem mk_scaled (s : Bool) {n d k : Nat} {x : Int} (pos : 0 < d) (scaled : Scaled n d k x) :
    ∃ a b, Val.mk s n d = .fin s a b ∧ 0 < b ∧ Scaled a b k x := by
  have gcd : 0 < Nat.gcd n d := Nat.gcd_pos_of_pos_right n pos
  refine ⟨_, _, rfl, Nat.div_pos (Nat.gcd_le_right n pos) gcd, Nat.eq_of_mul_eq_mul_left gcd ?_⟩
  calc Nat.gcd n d * (n / Nat.gcd n d * 2 ^ (-x).toNat)
      = n * 2 ^ (-x).toNat := by rw [← Nat.mul_assoc, Nat.mul_div_cancel' (Nat.gcd_dvd_left n d)]
    _ = k * d * 2 ^ x.toNat := scaled
    _ = k * (Nat.gcd n d * (d / Nat.gcd n d)) * 2 ^ x.toNat := by rw [Nat.mul_div_cancel' (Nat.gcd_dvd_right n d)]
    _ = Nat.gcd n d * (k * (d / Nat.gcd n d) * 2 ^ x.toNat) := by ac_rfl

theorem shift_scaled (s : Bool) (k : Nat) (x : Int) :
    ∃ n d, (Val.fin s k 1).shift x = .fin s n d ∧ 0 < d ∧ Scaled n d k x := by
  have made : (Val.fin s k 1).shift x = Val.mk s (k * 2 ^ x.toNat) (2 ^ (-x).toNat) := by
    unfold Val.shift
    dsimp only
    by_cases neg : x < 0
    · rw [if_pos neg, Int.toNat_of_nonpos (by omega : x ≤ 0), Nat.pow_zero, Nat.mul_one, Nat.one_mul]
    · rw [if_neg neg, Int.toNat_of_nonpos (by omega : -x ≤ 0), Nat.pow_zero]
  rw [made]
  exact mk_scaled s (Nat.two_pow_pos _) (Nat.mul_right_comm ..)

/-! ### Magnitude codes -/

/-- The exponent of the step of a format's grid, e binades above the smallest normal's (R115, R527). -/
def stepExp (f : Fmt) (e : Nat) : Int := f.emin - ((f.prec : Int) - 1) + e

/-- A magnitude code c taken apart: its binade e and its significand k, which has its top bit but in the lowest binade (R115). -/
structure Parts (f : Fmt) (c e k : Nat) : Prop where
  whole : e * 2 ^ (f.prec - 1) + k = c
  small : k < 2 * 2 ^ (f.prec - 1)
  normal : e = 0 ∨ 2 ^ (f.prec - 1) ≤ k

/-- k · 2^x against 2^(j + x). -/
theorem Scaled.powLe_iff {n d k j : Nat} {x : Int} (hd : 0 < d) (scaled : Scaled n d k x) : PowLe (j + x) n d ↔ 2 ^ j ≤ k := by
  rw [ElementCodes.powLe_iff (p := j + x.toNat) (q := (-x).toNat) n d (by omega), scaled, Nat.pow_add, ← Nat.mul_assoc,
    Nat.mul_comm k d, Nat.mul_le_mul_right_iff (Nat.two_pow_pos _), Nat.mul_le_mul_left_iff hd]

/-- The exponent at which `magCode` rounds a value of the grid: that of its significand's top bit. -/
theorem grid_exponent {f : Fmt} {n d c e k : Nat} (hn : 0 < n) (hd : 0 < d) (prec : 1 ≤ f.prec) (parts : Parts f c e k)
    (scaled : Scaled n d k (stepExp f e)) : Max.max (flog2 n d) f.emin = f.emin + e := by
  obtain ⟨-, small, normal⟩ := parts
  have top : ((f.prec - 1 : Nat) : Int) + stepExp f e = f.emin + e := by
    unfold stepExp
    omega
  have low := (le_flog2_iff hn hd _).trans (scaled.powLe_iff (j := f.prec - 1) hd)
  have high := (le_flog2_iff hn hd _).trans (scaled.powLe_iff (j := f.prec - 1 + 1) hd)
  rw [Nat.pow_succ] at high
  obtain rfl | topBit := normal
  · omega
  · have := low.2 topBit
    omega

/-- In units of its step 2^q a value k · 2^q of the grid is k, with nothing left over. -/
theorem grid_numerator {n d k : Nat} {q : Int} (scaled : Scaled n d k q) :
    (if q < 0 then n * 2 ^ (-q).toNat else n) = k * (if q < 0 then d else d * 2 ^ q.toNat) := by
  unfold Scaled at scaled
  by_cases neg : q < 0
  · rw [if_pos neg, if_pos neg, scaled, Int.toNat_of_nonpos (by omega : q ≤ 0), Nat.pow_zero, Nat.mul_one]
  · rw [Int.toNat_of_nonpos (by omega : -q ≤ 0), Nat.pow_zero, Nat.mul_one] at scaled
    rw [if_neg neg, if_neg neg, scaled, Nat.mul_assoc]

/-- A value of the grid is not rounded. -/
theorem magCode_of_scaled {f : Fmt} {n d c e k : Nat} (hd : 0 < d) (prec : 1 ≤ f.prec) (parts : Parts f c e k)
    (scaled : Scaled n d k (stepExp f e)) : f.magCode .rne n d = c := by
  unfold Fmt.magCode
  by_cases zero : n = 0
  · obtain ⟨whole, -, normal⟩ := parts
    have noBits : k = 0 := by
      rw [Scaled, zero, Nat.zero_mul, Nat.mul_assoc] at scaled
      have := Nat.mul_pos hd (Nat.two_pow_pos (stepExp f e).toNat)
      exact (Nat.mul_eq_zero.1 scaled.symm).resolve_right (Nat.ne_of_gt this)
    have := Nat.two_pow_pos (f.prec - 1)
    obtain rfl : e = 0 := by omega
    rw [if_pos zero]
    omega
  · have step : f.emin + e - ((f.prec : Int) - 1) = stepExp f e := by
      unfold stepExp
      omega
    have den : 0 < if stepExp f e < 0 then d else d * 2 ^ (stepExp f e).toNat := by
      split
      · exact hd
      · exact Nat.mul_pos hd (Nat.two_pow_pos _)
    have binade : (f.emin + e - f.emin).toNat = e := by omega
    rw [if_neg zero]
    dsimp only
    rw [grid_exponent (Nat.pos_of_ne_zero zero) hd prec parts scaled, step, grid_numerator scaled, binade]
    generalize (if stepExp f e < 0 then d else d * 2 ^ (stepExp f e).toNat) = u at den
    have exactly : decide (u < 2 * 0) = false ∧ decide (2 * 0 = u) = false :=
      ⟨decide_eq_false (by omega), decide_eq_false (by omega)⟩
    rw [Nat.mul_div_cancel _ den, Nat.mul_mod_left, exactly.1, exactly.2, Bool.false_and, Bool.or_self, parts.whole]
    rfl

theorem magVal_eq_shift (f : Fmt) (s : Bool) (c : Nat) :
    ∃ e k, Parts f c e k ∧ f.magVal s c = (Val.fin s k 1).shift (stepExp f e) := by
  have pos := Nat.two_pow_pos (f.prec - 1)
  unfold Fmt.magVal stepExp
  dsimp only
  by_cases sub : c < 2 ^ (f.prec - 1)
  · rw [if_pos sub, if_pos sub]
    exact ⟨0, c, ⟨by omega, by omega, .inl rfl⟩, rfl⟩
  · rw [if_neg sub, if_neg sub]
    refine ⟨_, _, ⟨?_, ?_, .inr (Nat.le_add_left ..)⟩, rfl⟩
    · have field : 1 ≤ c / 2 ^ (f.prec - 1) := (Nat.le_div_iff_mul_le pos).2 (by omega)
      have binade := Nat.mul_le_mul_right (2 ^ (f.prec - 1)) field
      have whole := Nat.div_add_mod' c (2 ^ (f.prec - 1))
      rw [Nat.sub_mul]
      omega
    · have := Nat.mod_lt c pos
      omega

theorem encode_fin_plain {f : Fmt} {n d c : Nat} (s : Bool) (code : f.magCode .rne n d = c) (le : c ≤ f.top) :
    f.encode .rne (.fin s n d) = (f.pack s c, .plain) := by
  subst code
  exact if_pos le

/-- A magnitude code, its value rounded to nearest even, is that code again. -/
theorem encode_magVal {f : Fmt} {c : Nat} (prec : 1 ≤ f.prec) (s : Bool) (le : c ≤ f.top) :
    f.encode .rne (f.magVal s c) = (f.pack s c, .plain) := by
  obtain ⟨e, k, parts, val⟩ := magVal_eq_shift f s c
  obtain ⟨n, d, eq, pos, scaled⟩ := shift_scaled s k (stepExp f e)
  rw [val, eq, encode_fin_plain s (magCode_of_scaled pos prec parts scaled) le]

/-! ### Signed codes -/

/-- A finite code of a sign and magnitude format is a magnitude code with the sign in its top bit. -/
theorem decode_of_isFin {f : Fmt} {c : Nat} (sm : f ≠ .int8) (fin : (f.decode c).isFin = true) :
    c % 2 ^ (f.width - 1) ≤ f.top ∧ f.decode c = f.magVal (bit c (f.width - 1)) (c % 2 ^ (f.width - 1)) := by
  unfold Fmt.decode at fin ⊢
  rw [if_neg sm] at fin ⊢
  dsimp only at fin ⊢
  by_cases le : c % 2 ^ (f.width - 1) ≤ f.top
  · exact ⟨le, if_pos le⟩
  · rw [if_neg le] at fin
    cases inf : f.infc with
    | none =>
      rw [inf] at fin
      exact absurd fin Bool.false_ne_true
    | some i =>
      rw [inf] at fin
      dsimp only at fin
      by_cases infinite : c % 2 ^ (f.width - 1) = i
      · rw [if_pos infinite] at fin
        exact absurd fin Bool.false_ne_true
      · rw [if_neg infinite] at fin
        exact absurd fin Bool.false_ne_true

theorem pack_false {f : Fmt} (sm : f ≠ .int8) (m : Nat) : f.pack false m = m := by
  rw [Fmt.pack, if_neg sm, b2n, if_neg Bool.false_ne_true, Nat.zero_mul, Nat.zero_add]

theorem pack_true {f : Fmt} (sm : f ≠ .int8) (m : Nat) : f.pack true m = 2 ^ (f.width - 1) + m := by
  rw [Fmt.pack, if_neg sm, b2n, if_pos rfl, Nat.one_mul]

theorem b2n_bit (c i : Nat) : b2n (bit c i) = c / 2 ^ i % 2 := by
  rw [← Nat.toNat_testBit, bit]
  cases c.testBit i <;> rfl

theorem pack_bit_mod {f : Fmt} {c : Nat} (sm : f ≠ .int8) (width : 1 ≤ f.width) (lt : c < 2 ^ f.width) :
    f.pack (bit c (f.width - 1)) (c % 2 ^ (f.width - 1)) = c := by
  have whole := Nat.mod_pow_succ (x := c) (b := 2) (k := f.width - 1)
  rw [Nat.sub_add_cancel width, Nat.mod_eq_of_lt lt] at whole
  rw [Fmt.pack, if_neg sm, b2n_bit, Nat.mul_comm, Nat.add_comm, ← whole]

theorem bit_signed (s : Bool) {m i : Nat} (lt : m < 2 ^ i) : bit (b2n s * 2 ^ i + m) i = s := by
  have low : m.testBit i = false := Nat.testBit_lt_two_pow lt
  cases s with
  | false => rw [bit, b2n, if_neg Bool.false_ne_true, Nat.zero_mul, Nat.zero_add, low]
  | true => rw [bit, b2n, if_pos rfl, Nat.one_mul, Nat.testBit_two_pow_add_eq, low, Bool.not_false]

theorem decode_pack {f : Fmt} {m : Nat} (sm : f ≠ .int8) (s : Bool) (le : m ≤ f.top) (lt : m < 2 ^ (f.width - 1)) :
    f.decode (f.pack s m) = f.magVal s m := by
  have low : (b2n s * 2 ^ (f.width - 1) + m) % 2 ^ (f.width - 1) = m := by
    rw [Nat.mul_add_mod_self_right, Nat.mod_eq_of_lt lt]
  rw [Fmt.pack, if_neg sm, Fmt.decode, if_neg sm]
  dsimp only
  rw [low, bit_signed s lt, if_pos le]

theorem shift_neg (s : Bool) (n d : Nat) (x : Int) : (Val.fin (!s) n d).shift x = ((Val.fin s n d).shift x).neg := by
  unfold Val.shift
  dsimp only
  by_cases neg : x < 0
  · rw [if_pos neg, if_pos neg]
    rfl
  · rw [if_neg neg, if_neg neg]
    rfl

theorem magVal_neg (f : Fmt) (c : Nat) : f.magVal true c = (f.magVal false c).neg := shift_neg false ..

/-- The top bit of a sign and magnitude code negates its value. -/
theorem decode_top_bit {f : Fmt} {m : Nat} (sm : f ≠ .int8) (le : m ≤ f.top) (lt : m < 2 ^ (f.width - 1)) :
    f.decode (2 ^ (f.width - 1) + m) = (f.decode m).neg := by
  have minus := decode_pack sm true le lt
  have plus := decode_pack sm false le lt
  rw [magVal_neg, ← plus, pack_true sm, pack_false sm] at minus
  exact minus

theorem encode_decode_of_sign_magnitude {f : Fmt} {c : Nat} (sm : f ≠ .int8) (prec : 1 ≤ f.prec) (width : 1 ≤ f.width)
    (lt : c < 2 ^ f.width) (fin : (f.decode c).isFin = true) : f.encode .rne (f.decode c) = (c, .plain) := by
  obtain ⟨le, val⟩ := decode_of_isFin sm fin
  rw [val, encode_magVal prec _ le, pack_bit_mod sm width lt]

/-- A whole number of MXINT8 steps of 2^(-6) below 2 lies in the lowest binade of the grid (R116). -/
theorem encode_int8_steps (s : Bool) {m : Nat} (le : m ≤ 127) :
    Fmt.int8.encode .rne (Val.mk s m 64) = (Fmt.int8.pack s m, .plain) := by
  have steps : Scaled m 64 m (stepExp .int8 0) := (Nat.mul_one _).symm
  obtain ⟨n, d, eq, pos, scaled⟩ := mk_scaled s (by omega) steps
  have lowest : Parts .int8 m 0 m := ⟨by omega, Nat.lt_succ_of_le le, .inl rfl⟩
  rw [eq, encode_fin_plain s (magCode_of_scaled pos (by decide) lowest scaled) le]

theorem encode_decode_int8 {c : Nat} (lt : c < 256) (written : c ≠ 0x80) :
    Fmt.int8.encode .rne (Fmt.int8.decode c) = (c, .plain) := by
  rw [Fmt.decode, if_pos rfl]
  by_cases positive : c < 128
  · rw [if_pos positive, encode_int8_steps false (by omega)]
    rfl
  · rw [if_neg positive, encode_int8_steps true (by omega), Fmt.pack, if_pos rfl, if_pos rfl]
    congr 1
    omega

theorem formats_nonempty_fields : ∀ f ∈ formats, 1 ≤ f.prec ∧ 1 ≤ f.width := by decide

/-! ### The two obligations -/

/-- Settles O60: the value of a code lies on the grid of its format, so that rounding leaves it (`magCode_of_scaled`) and the code
is formed again from its sign and magnitude, or in MXINT8 from its two's complement. -/
theorem codesRoundTrip : Obligations.CodesRoundTrip := by
  unfold Obligations.CodesRoundTrip
  intro f mem c lt written fin
  by_cases twos : f = .int8
  · subst twos
    exact encode_decode_int8 lt (written rfl)
  · obtain ⟨prec, width⟩ := formats_nonempty_fields f mem
    exact encode_decode_of_sign_magnitude twos prec width lt fin

/-- The magnitudes of E2M1 (R118). -/
theorem decode_e2m1 : ∀ c, c < 8 → Fmt.e2m1.decode c =
    nth .nan [.zero, .fin false 1 2, .one, .fin false 3 2, .fin false 2 1, .fin false 3 1, .fin false 4 1, .fin false 6 1] c := by
  decide

/-- The magnitudes of B3 (R119). -/
theorem decode_b3 : ∀ c, c < 4 → Fmt.b3.decode c = nth .nan [.zero, .fin false 1 2, .one, .fin false 2 1] c := by
  decide

/-- Settles O56: the magnitudes are those of the tables, and the top bit of a code is its sign (`decode_top_bit`). -/
theorem recordCodes : Obligations.RecordCodes := by
  unfold Obligations.RecordCodes
  refine ⟨fun c lt => ?_, fun c lt => ?_, rfl, rfl, rfl, rfl, rfl, rfl⟩
  · have minus : Fmt.e2m1.decode (8 + c) = (Fmt.e2m1.decode c).neg :=
      decode_top_bit (by decide) (Nat.le_of_lt_succ lt) lt
    rw [decode_e2m1 c lt] at minus
    exact ⟨decode_e2m1 c lt, decode_e2m1 c lt, minus, fun _ => minus⟩
  · have minus : Fmt.b3.decode (4 + c) = (Fmt.b3.decode c).neg :=
      decode_top_bit (by decide) (Nat.le_of_lt_succ lt) lt
    rw [decode_b3 c lt] at minus
    exact ⟨decode_b3 c lt, fun _ => minus⟩

end Sys2Proof.Machine.ElementCodes
end

section
/-! SUPPORT. O24: ACCREAD, the read-out of an accumulator tile into a slot of a ring (R154 to R158, R166, R333). -/

set_option autoImplicit false

namespace Sys2Proof.Machine.ReadOut

open OuterArrays

/-! ### Reads of a core after a change of it -/

@[simp] theorem core_onHw (s : State) (k : Nat) (f : CoreHw → CoreHw) :
    (s.onHw k f).core k = { s.core k with hw := f (s.core k).hw } := State.core_setCore ..

@[simp] theorem core_regs (s : State) (k : Nat) (f : CoreRegs → CoreRegs) :
    (s.regs k f).core k = { s.core k with hw := { (s.core k).hw with regs := f (s.core k).hw.regs } } := State.core_setCore ..

@[simp] theorem core_onRing (s : State) (k r : Nat) (f : Ring → Ring) :
    (s.onRing k r f).core k = { s.core k with cx := { (s.core k).cx with rings := modNth (s.core k).cx.rings r f } } :=
  core_onCx ..

theorem ring_onRing (s : State) (k r : Nat) (f : Ring → Ring) (h : r < (s.core k).cx.rings.length) :
    ((s.onRing k r f).core k).ring r = f ((s.core k).ring r) := by
  rw [core_onRing, Core.ring, nth_modNth, if_pos ⟨rfl, h⟩]
  rfl

theorem coreOnly_onRing {s t : State} {k : Nat} (h : coreOnly s t k) (r : Nat) (f : Ring → Ring) : coreOnly s (t.onRing k r f) k :=
  coreOnly_onCx h _

theorem coreOnly_regs {s t : State} {k : Nat} (h : coreOnly s t k) (f : CoreRegs → CoreRegs) : coreOnly s (t.regs k f) k :=
  coreOnly_onC h _

theorem begin_core (s : State) (k : Nat) (e : Engine) (n : QEntry) : ∃ x, (begin_ s k e n).core k = (s.core k).setEng e x := by
  rw [begin_, State.onEng, State.core_onC, if_pos rfl]
  exact ⟨_, rfl⟩

@[simp] theorem arrs_setEng (c : Core) (e : Engine) (x : Eng) : (c.setEng e x).cx.arrs = c.cx.arrs := by
  cases e <;> rfl

@[simp] theorem rings_setEng (c : Core) (e : Engine) (x : Eng) : (c.setEng e x).cx.rings = c.cx.rings := by
  cases e <;> rfl

@[simp] theorem hw_setEng (c : Core) (e : Engine) (x : Eng) : (c.setEng e x).hw = c.hw := by
  cases e <;> rfl

theorem eng_setEng (c : Core) (e : Engine) (x : Eng) (h : e ≠ .cc) : (c.setEng e x).eng e = x := by
  cases e
  case cc => exact absurd rfl h
  all_goals rfl

/-! ### The end of a command (R183) -/

@[simp] theorem finish_arrs (s : State) (k : Nat) (e : Engine) (seq : Nat) :
    ((finish s k e seq).core k).cx.arrs = (s.core k).cx.arrs := by
  obtain ⟨x, h, eq⟩ := finish_core s k e seq
  rw [eq]
  exact arrs_setEng ..

@[simp] theorem finish_ring (s : State) (k : Nat) (e : Engine) (seq r : Nat) :
    ((finish s k e seq).core k).ring r = (s.core k).ring r := by
  obtain ⟨x, h, eq⟩ := finish_core s k e seq
  rw [eq]
  exact ring_setEng ..

/-- Of the hardware, retirement moves its own counts only. -/
theorem finish_hw (s : State) (k : Nat) (e : Engine) (seq : Nat) :
    ∃ p q, ((finish s k e seq).core k).hw = { (s.core k).hw with retired := p, progress := q } := by
  simp only [finish, retire, core_onHw, State.onEng, State.core_onC, if_true, hw_setEng]
  exact ⟨_, _, rfl⟩

@[simp] theorem finish_tstore (s : State) (k : Nat) (e : Engine) (seq : Nat) :
    ((finish s k e seq).core k).hw.tstore = (s.core k).hw.tstore := by
  obtain ⟨p, q, eq⟩ := finish_hw s k e seq
  rw [eq]

@[simp] theorem finish_regs (s : State) (k : Nat) (e : Engine) (seq : Nat) :
    ((finish s k e seq).core k).hw.regs = (s.core k).hw.regs := by
  obtain ⟨p, q, eq⟩ := finish_hw s k e seq
  rw [eq]

theorem st_of_mem_mark {x : Eng} {seq : Nat} {st : QSt} {m : QEntry} (h : m ∈ (x.mark seq st).q) (number : m.seq = seq) :
    m.st = st := by
  obtain ⟨n, -, rfl⟩ := List.mem_map.1 h
  split
  · rfl
  next other => simp [other] at number

/-- What a finished command's queue still holds stood there marked. -/
theorem doneSeq_finish (s : State) (k : Nat) (e : Engine) (seq : Nat) (h : e ≠ .cc) : doneSeq (finish s k e seq) k e seq := by
  intro m mem number
  refine st_of_mem_mark (x := (s.core k).eng e) ?_ number
  simp only [finish, retire, core_onHw, State.onEng, State.core_onC, if_true] at mem
  have drop : ∀ (c : Core) (w : CoreHw), ({ c with hw := w } : Core).eng e = c.eng e := fun c w => by cases e <;> rfl
  simp only [drop, eng_setEng _ _ _ h] at mem
  exact List.mem_of_mem_drop mem

/-! ### A tile written into a slot -/

theorem bytes_setBytes (m : Mem) (a : Nat) (bs : Bytes) : Mem.bytes (Mem.setBytes m a bs) a bs.length = bs := by
  refine List.ext_getElem (by simp [Mem.bytes]) fun i _ inside => ?_
  simp [Mem.bytes, Mem.byte_setBytes, inside]

/-- A ring with a slot at TAIL is a ring of the core. -/
theorem ring_lt_of_slots {c : Core} {r i : Nat} (h : i < (c.ring r).slots.length) : r < c.cx.rings.length := by
  refine Nat.lt_of_not_le fun out => ?_
  have none : c.ring r = .empty := by rw [Core.ring, nth, List.getElem?_eq_none out, Option.getD_none]
  rw [none] at h
  exact Nat.not_lt_zero i h

theorem tail_lt_of_tailFree {x : Ring} (h : x.tailFree = true) : x.tail < x.slots.length := by
  refine Nat.lt_of_not_le fun out => ?_
  rw [Ring.tailFree, List.getElem?_eq_none out] at h
  exact Bool.false_ne_true h

theorem claim_slot (x : Ring) (fmt rows cols : Nat) (axis : Bool) (tc pc : Nat) (src : Source) (h : x.tail < x.slots.length) :
    nth .empty (x.claim fmt rows cols axis tc pc src).slots x.tail = ⟨.filling, x.nextTag, fmt, rows, cols, false, axis, tc, pc, src⟩ := by
  rw [Ring.claim, Ring.onSlot, nth_modNth, if_pos ⟨rfl, h⟩]

theorem claim_slots_length (x : Ring) (fmt rows cols : Nat) (axis : Bool) (tc pc : Nat) (src : Source) :
    (x.claim fmt rows cols axis tc pc src).slots.length = x.slots.length := List.length_modify ..

theorem coreOnly_fillSlot {s t : State} {k : Nat} (h : coreOnly s t k) (r i : Nat) (x : Tile) : coreOnly s (fillSlot t k r i x) k := by
  unfold fillSlot poisonIn
  exact coreOnly_regs (coreOnly_onRing (coreOnly_onHw h _) ..) _

@[simp] theorem fillSlot_arrs (s : State) (k r i : Nat) (t : Tile) :
    ((fillSlot s k r i t).core k).cx.arrs = (s.core k).cx.arrs := by
  simp [fillSlot, poisonIn]

@[simp] theorem fillSlot_accLast (s : State) (k r i : Nat) (t : Tile) :
    ((fillSlot s k r i t).core k).hw.regs.accLast = (s.core k).hw.regs.accLast := by
  simp [fillSlot, poisonIn, tsWrite]

theorem fillSlot_ring (s : State) (k r i : Nat) (t : Tile) (h : r < (s.core k).cx.rings.length) :
    ((fillSlot s k r i t).core k).ring r =
      ((s.core k).ring r).onSlot i (fun y => { y with st := .valid, poison := !t.bad.isEmpty }) := by
  simp [fillSlot, poisonIn, Core.ring, nth_modNth, h]

theorem fillSlot_bytes (s : State) (k r i : Nat) (t : Tile) :
    Mem.bytes ((fillSlot s k r i t).core k).hw.tstore (((s.core k).ring r).geom.line i * 64) t.bytes.length = t.bytes := by
  simp [fillSlot, poisonIn, tsWrite, bytes_setBytes]

/-! ### ACCREAD -/

/-- The array that an ACCREAD names (R178). -/
def accArr (duo : Bool) (w : CmdWord) : Nat := arrOf duo (wf w 111 110)

/-- The output ring of an ACCREAD (R178). -/
def accRing (w : CmdWord) : Nat := wf w 109 105

/-- The format of an ACCREAD (R178). -/
def accFmt (w : CmdWord) : Nat := wf w 104 100

/-- Rows and columns of the tile of an ACCREAD (R157). -/
def accShape (co : Core) (duo : Bool) (w : CmdWord) : Nat × Nat := readShape duo (co.arr (accArr duo w)).isMode

/-- The elements of an ACCREAD, in row order, with what each counts (R154 to R156). -/
def accElems (co : Core) (duo : Bool) (w : CmdWord) : List (Nat × Outc) :=
  let sh := accShape co duo w
  (List.range (sh.1 * sh.2)).map (fun i =>
    readOut (accFmt w) (wf w 91 90) (sx 8 (wf w 99 92)) (co.cellAt (accArr duo w) (i / sh.2) (i % sh.2)))

/-- Bytes of the tile of an ACCREAD. -/
def accBytes (co : Core) (duo : Bool) (w : CmdWord) : Nat :=
  slotBytes (accFmt w) (accShape co duo w).1 (accShape co duo w).2 0 0

/-- The tile that an ACCREAD writes, every line of it poisoned where the array is tainted (R157). -/
def accTile (co : Core) (duo : Bool) (w : CmdWord) : Tile :=
  ⟨accFmt w, (accShape co duo w).1, (accShape co duo w).2, false, 0, 0,
    (accElems co duo w).flatMap (fun o => natLe (elemBytes (accFmt w)) o.1),
    if (co.arr (accArr duo w)).flags.taint then List.range (accBytes co duo w / 64) else []⟩

theorem accTile_bytes (co : Core) (duo : Bool) (w : CmdWord) : (accTile co duo w).bytes =
    (List.range ((accShape co duo w).1 * (accShape co duo w).2)).flatMap (fun i => natLe (elemBytes (accFmt w))
      (readOut (accFmt w) (wf w 91 90) (sx 8 (wf w 99 92))
        (co.cellAt (accArr duo w) (i / (accShape co duo w).2) (i % (accShape co duo w).2))).1) :=
  List.flatMap_map ..

/-- What an ACCREAD leaves in the registers (R166). -/
def accCounted (co : Core) (duo : Bool) (w : CmdWord) (g : CoreRegs) : CoreRegs :=
  let outs := accElems co duo w
  let fl := (co.arr (accArr duo w)).flags
  { g with
    accLast := modNth g.accLast (accArr duo w) (fun _ => fl.code)
    roSat := hold 16 g.roSat (outs.filter (fun o => o.2 == .sat)).length
    roNonfin := hold 16 g.roNonfin (outs.filter (fun o => o.2 == .nonfin)).length
    roTainted := hold 32 g.roTainted (b2n fl.taint) }

/-- The state in which an ACCREAD has claimed its slot. -/
def accClaimed (s : State) (k : Nat) (n : QEntry) : State :=
  let sh := accShape (s.core k) (s.duoOf k) n.word
  (begin_ s k .ope n).onRing k (accRing n.word) (fun y => y.claim (accFmt n.word) sh.1 sh.2 false 0 0 .made)

/-- The state in which an ACCREAD has completed. -/
def accDone (s : State) (k : Nat) (n : QEntry) : State :=
  let co := s.core k
  let duo := s.duoOf k
  finish ((fillSlot (accClaimed s k n) k (accRing n.word) (co.ring (accRing n.word)).tail (accTile co duo n.word)).regs k
    (accCounted co duo n.word)) k .ope n.seq

theorem exec_accread {c : CoreId} {s : State} {ctx : Nat} {n : QEntry} (fit : fittedCore s c)
    (head : s.head (ck c) .ope 0x43 = some (ctx, n))
    (idle : (s.core (ck c)).runOn (s.duoOf (ck c)) (accArr (s.duoOf (ck c)) n.word) = false)
    (fills : ((s.core (ck c)).ring (accRing n.word)).fillable .ope = true)
    (room : accBytes (s.core (ck c)) (s.duoOf (ck c)) n.word ≤ ((s.core (ck c)).ring (accRing n.word)).geom.slotLines * 64)
    (free : ((s.core (ck c)).ring (accRing n.word)).tailFree = true) :
    exec (.accread c) s = .next (accDone s (ck c) n) := by
  have e : exec (.accread c) s = execAccread c s := rfl
  rw [e, execAccread, onCore_of_fitted fit]
  unfold accArr at idle
  unfold accRing at fills room free
  simp only [head, idle, fills, free, Bool.not_true, Bool.false_eq_true, if_false]
  congr 1
  exact if_neg (Nat.not_lt.2 room)

theorem coreOnly_accDone (s : State) (k : Nat) (n : QEntry) : coreOnly s (accDone s k n) k := by
  unfold accDone accClaimed
  exact coreOnly_finish (coreOnly_regs (coreOnly_fillSlot (coreOnly_onRing (coreOnly_begin (coreOnly_refl s k) ..) ..) ..) _) ..

/-- Up to the claim, only the queue and the ring have changed. -/
theorem accClaimed_core (s : State) (k : Nat) (n : QEntry) :
    ((accClaimed s k n).core k).cx.arrs = (s.core k).cx.arrs ∧ ((accClaimed s k n).core k).hw = (s.core k).hw
      ∧ ((accClaimed s k n).core k).cx.rings.length = (s.core k).cx.rings.length := by
  obtain ⟨x, eq⟩ := begin_core s k .ope n
  simp [accClaimed, eq, modNth]

theorem accClaimed_ring (s : State) (k : Nat) (n : QEntry) (h : accRing n.word < (s.core k).cx.rings.length) :
    let sh := accShape (s.core k) (s.duoOf k) n.word
    ((accClaimed s k n).core k).ring (accRing n.word) =
      ((s.core k).ring (accRing n.word)).claim (accFmt n.word) sh.1 sh.2 false 0 0 .made := by
  obtain ⟨x, eq⟩ := begin_core s k .ope n
  rw [accClaimed, ring_onRing _ _ _ _ (by rwa [eq, rings_setEng]), eq, ring_setEng]

theorem accDone_arrs (s : State) (k : Nat) (n : QEntry) : ((accDone s k n).core k).cx.arrs = (s.core k).cx.arrs := by
  obtain ⟨arrs, -, -⟩ := accClaimed_core s k n
  simp [accDone, arrs]

theorem accDone_accLast (s : State) (k : Nat) (n : QEntry) :
    ((accDone s k n).core k).hw.regs.accLast = (s.core k).hw.regs.accLast.modify (accArr (s.duoOf k) n.word)
      (fun _ => ((s.core k).arr (accArr (s.duoOf k) n.word)).flags.code) := by
  obtain ⟨-, hw, -⟩ := accClaimed_core s k n
  simp [accDone, accCounted, modNth, hw]

/-- The formats of a read-out are plain (R176, R178). -/
theorem plain_of_readOut_format : ∀ fmt ∈ [0, 1, 3, 4], blockLen fmt = 0 ∧ 0 < elemBytes fmt := by decide

theorem line_le_slotBytes {fmt rows : Nat} (cols : Nat) (format : fmt ∈ [0, 1, 3, 4]) (row : 1 ≤ rows) :
    64 ≤ slotBytes fmt rows cols 0 0 := by
  obtain ⟨plain, elem⟩ := plain_of_readOut_format fmt format
  have width : 64 ≤ (if 128 < cols then 256 else 128) := by split <;> decide
  rw [slotBytes, if_pos plain]
  exact Nat.mul_le_mul (Nat.mul_le_mul row width) elem

theorem readShape_row (duo isMode : Bool) : 1 ≤ (readShape duo isMode).1 := by
  cases duo <;> cases isMode <;> decide

/-- A plain tile has a line at least, so that the taint of its array shows in the slot's header (R157, R235). -/
theorem accTile_poison (co : Core) (duo : Bool) (w : CmdWord) (h : accFmt w ∈ [0, 1, 3, 4]) :
    (!(accTile co duo w).bad.isEmpty) = (co.arr (accArr duo w)).flags.taint := by
  have line : 64 ≤ accBytes co duo w := line_le_slotBytes _ h (readShape_row ..)
  cases taint : (co.arr (accArr duo w)).flags.taint
  · simp [accTile, taint]
  · simpa [accTile, taint] using line

theorem accDone_slot (s : State) (k : Nat) (n : QEntry) (format : accFmt n.word ∈ [0, 1, 3, 4])
    (free : ((s.core k).ring (accRing n.word)).tailFree = true) :
    let x := (s.core k).ring (accRing n.word)
    let sh := accShape (s.core k) (s.duoOf k) n.word
    nth .empty (((accDone s k n).core k).ring (accRing n.word)).slots x.tail =
      ⟨.valid, x.nextTag, accFmt n.word, sh.1, sh.2, ((s.core k).arr (accArr (s.duoOf k) n.word)).flags.taint, false, 0, 0, .made⟩ := by
  intro x sh
  have tail : x.tail < x.slots.length := tail_lt_of_tailFree free
  have ring : accRing n.word < (s.core k).cx.rings.length := ring_lt_of_slots tail
  obtain ⟨-, -, rings⟩ := accClaimed_core s k n
  have filled : ((accDone s k n).core k).ring (accRing n.word) =
      (x.claim (accFmt n.word) sh.1 sh.2 false 0 0 .made).onSlot x.tail
        (fun y => { y with st := .valid, poison := !(accTile (s.core k) (s.duoOf k) n.word).bad.isEmpty }) := by
    rw [accDone, finish_ring, core_regs]
    exact (fillSlot_ring _ _ _ _ _ (rings ▸ ring)).trans (by rw [accClaimed_ring s k n ring])
  rw [filled, Ring.onSlot, nth_modNth, if_pos ⟨rfl, by rwa [claim_slots_length]⟩, claim_slot _ _ _ _ _ _ _ _ tail,
    accTile_poison _ _ _ format]

theorem accDone_bytes (s : State) (k : Nat) (n : QEntry) (free : ((s.core k).ring (accRing n.word)).tailFree = true) :
    let x := (s.core k).ring (accRing n.word)
    let bs := (accTile (s.core k) (s.duoOf k) n.word).bytes
    Mem.bytes ((accDone s k n).core k).hw.tstore (x.geom.line x.tail * 64) bs.length = bs := by
  intro x bs
  have ring : accRing n.word < (s.core k).cx.rings.length := ring_lt_of_slots (tail_lt_of_tailFree free)
  have geom : (((accClaimed s k n).core k).ring (accRing n.word)).geom = x.geom := by
    rw [accClaimed_ring s k n ring]
    rfl
  rw [accDone, finish_tstore, core_regs, ← geom]
  exact fillSlot_bytes ..

/-- Settles O24: the slot at TAIL is claimed, then filled with the tile of the array's elements (`accDone`). -/
theorem readsOut : Obligations.ReadsOut := by
  unfold Obligations.ReadsOut
  intro c s ctx n fit k co duo a r fmt x sh head idle fills room free format
  refine ⟨_, exec_accread fit head idle fills room free, coreOnly_accDone .., doneSeq_finish _ _ _ _ nofun, accDone_arrs ..,
    accDone_slot s k n format free, ?_, accDone_accLast ..⟩
  have bytes := accDone_bytes s k n free
  rwa [accTile_bytes] at bytes

end Sys2Proof.Machine.ReadOut
end
